-- ==== Sys2Proof/Word.lean ====
section
/-! DEFINITION. The machine's word types: the 64-bit register word (R5, R20) and the 3-bit value that
an opcode, an operand and a digit of the output tape each are (R5, R30, R70). -/

namespace Sys2Proof

/-- The value of register A, B or C: `W` = 64 bits (R5, R20; R22 allows `W`-bit vectors). -/
abbrev Word := BitVec 64

/-- A 3-bit value 0–7: the operand of an instruction pair (R70) and a digit of the tape (R30). -/
abbrev Octal := BitVec 3

end Sys2Proof
end

