-- ==== Sys2Proof/Syntax.lean ====
section
/-! DEFINITION. The eight instructions (R2, R72), the three registers (R20), the operand kinds (R74) and
the sources a combo operand can name (R80). -/

namespace Sys2Proof

/-- The general registers (R20). -/
inductive Reg where
  | a | b | c
deriving DecidableEq, Repr

/-- How an instruction uses its operand element (R74). -/
inductive OperandKind where
  | combo | literal | ignored
deriving DecidableEq, Repr

/-- What a legal combo operand denotes: a small constant, or a register (R75, R80). -/
inductive ComboSource where
  | literal (n : Octal)
  | register (r : Reg)
deriving DecidableEq, Repr

/-- An instruction: an opcode of R72 with the raw value of its operand element (R70). Whether a combo
operand is legal is `Sys2Proof.wellFormed`; the decoder refuses the others (R79). -/
inductive Instr where
  /-- opcode 0, combo operand (R120) -/
  | adv (x : Octal)
  /-- opcode 1, literal operand (R130) -/
  | bxl (x : Octal)
  /-- opcode 2, combo operand (R131) -/
  | bst (x : Octal)
  /-- opcode 3, literal operand (R140) -/
  | jnz (x : Octal)
  /-- opcode 4, ignored operand (R132) -/
  | bxc (x : Octal)
  /-- opcode 5, combo operand (R150) -/
  | out (x : Octal)
  /-- opcode 6, combo operand (R121) -/
  | bdv (x : Octal)
  /-- opcode 7, combo operand (R122) -/
  | cdv (x : Octal)
deriving DecidableEq, Repr

end Sys2Proof
end

