-- ==== Sys2Proof/WellFormed.lean ====
section
/-! DEFINITION. Which instruction terms are instructions of the machine (R82): a combo operand is never 7.
Opcodes and operands above 7 (the other two rows of R82) are no terms of `Instr` at all. -/

namespace Sys2Proof

/-- A combo operand is one of 0–6 (R75). -/
def comboLegal (x : Octal) : Bool := x != 7

/-- The one check of R82 that an `Instr` term can fail: combo kind with operand 7. Operand 7 is legal for
`bxl`, `jnz` and `bxc` (R76, R77). -/
def wellFormed : Instr → Bool
  | .adv x => comboLegal x
  | .bxl _ => true
  | .bst x => comboLegal x
  | .jnz _ => true
  | .bxc _ => true
  | .out x => comboLegal x
  | .bdv x => comboLegal x
  | .cdv x => comboLegal x

end Sys2Proof
end

