-- ==== Sys2Proof/Decode.lean ====
section
/-! DEFINITION. The decoder (R79), the encoder (R70–R72), the program check a LOAD runs (R84–R86) and the
6-bit instruction word of the opcode table (R71). -/

namespace Sys2Proof

/-- The two conditions the decoder raises (R79, R80). -/
inductive DecodeFault where
  | invalidOpcode
  | invalidOperand
deriving DecidableEq, Repr

/-- The operand kind column of R72. -/
def operandKind : Instr → OperandKind
  | .adv _ => .combo
  | .bxl _ => .literal
  | .bst _ => .combo
  | .jnz _ => .literal
  | .bxc _ => .ignored
  | .out _ => .combo
  | .bdv _ => .combo
  | .cdv _ => .combo

/-- `OPCODE_TABLE[op]` of R79: the instruction of each opcode value of R72. -/
def opcodeTable (op : Nat) (x : Octal) : Option Instr :=
  match op with
  | 0 => some (.adv x)
  | 1 => some (.bxl x)
  | 2 => some (.bst x)
  | 3 => some (.jnz x)
  | 4 => some (.bxc x)
  | 5 => some (.out x)
  | 6 => some (.bdv x)
  | 7 => some (.cdv x)
  | _ => none

/-- The decoder of R79, total on any two elements: the opcode's range, then the operand's range, then a
combo operand of 7. -/
def decode (op x : Nat) : Except DecodeFault Instr :=
  match opcodeTable op (BitVec.ofNat 3 x) with
  | none => .error .invalidOpcode
  | some i =>
    if 7 < x then .error .invalidOperand
    else if operandKind i = .combo ∧ x = 7 then .error .invalidOperand
    else .ok i

/-- The opcode value of an instruction (R72). -/
def opcodeOf : Instr → Nat
  | .adv _ => 0
  | .bxl _ => 1
  | .bst _ => 2
  | .jnz _ => 3
  | .bxc _ => 4
  | .out _ => 5
  | .bdv _ => 6
  | .cdv _ => 7

/-- The operand element of an instruction (R70). -/
def operandOf : Instr → Octal
  | .adv x => x
  | .bxl x => x
  | .bst x => x
  | .jnz x => x
  | .bxc x => x
  | .out x => x
  | .bdv x => x
  | .cdv x => x

/-- The two elements of an instruction, opcode first (R70, R90). -/
def encode (i : Instr) : List Nat := [opcodeOf i, (operandOf i).toNat]

/-- The instruction word `ins = op, x` of R71: the opcode in bits 5–3, the operand in bits 2–0. -/
def encodeWord (i : Instr) : BitVec 6 := BitVec.ofNat 3 (opcodeOf i) ++ operandOf i

/-- The opcode and operand elements that the bits `w` of an opcode-table row stand for (R71); bits of `w` at
or above `nbits` are not part of it. A bit above bit 5 makes the opcode element larger than 7. -/
def tableElements (nbits w : Nat) : Nat × Nat := (w % 2 ^ nbits / 8, w % 2 ^ nbits % 8)

/-- The instruction the decoder reads from the opcode-table word `w`; `none` where it refuses. -/
def decodeTableWord (nbits w : Nat) : Option Instr :=
  match decode (tableElements nbits w).1 (tableElements nbits w).2 with
  | .ok i => some i
  | .error _ => none

/-- What a LOAD can find wrong with a program (R86). -/
inductive LoadFault where
  | malformedProgram
  | illegalPair (f : DecodeFault)
deriving DecidableEq, Repr

/-- R85: the pairs from index `k` on, in increasing index; the first failing pair with its index. The checks on
one pair, and their order, are the decoder's (R168). -/
def checkPairs : Nat → List Nat → Option (LoadFault × Nat)
  | k, op :: x :: rest =>
    match decode op x with
    | .error f => some (.illegalPair f, k)
    | .ok _ => checkPairs (k + 2) rest
  | _, _ => none

/-- `check(prog)` of R86: `none` is "ok", otherwise the one fault reported and the value FAULT_AT takes. -/
def loadCheck (prog : List Nat) : Option (LoadFault × Nat) :=
  if prog.length % 2 = 0 then checkPairs 0 prog else some (.malformedProgram, prog.length)

end Sys2Proof
end

