-- ==== Sys2Proof/Config.lean ====
section
/-! DEFINITION. What an implementation fixes: the two OPEN parameters of R5. Every other parameter of R5
has the value the spec fixes (`W` = 64 in `Sys2Proof.Word`; 3-bit fields; three registers). -/

namespace Sys2Proof.Config

/-- The OPEN parameters of R5: `none` is "unbounded". A machine carries its own value of them in
`State.params`, which nothing writes, so that a statement over all states holds for every value
(log entry 7). -/
structure Params where
  /-- `MAX_PROG_LEN`: the most elements a program may have (R5, 92_eei_decisions.md D18). -/
  maxProgLen   : Option Nat
  /-- `TAPE_CAPACITY`: the most digits the output tape holds (R5, R30, 92_eei_decisions.md D19). -/
  tapeCapacity : Option Nat
deriving DecidableEq, Repr

/-- The default of both OPEN parameters (R5: "default: unbounded"). -/
def Params.unbounded : Params := { maxProgLen := none, tapeCapacity := none }

end Sys2Proof.Config
end

