-- ==== Sys2Proof/Machine/State.lean ====
section
/-! DEFINITION. The state of the core, every piece R20–R36 give it, as plain data; the reasons a step or a
command stops; and the state after power-on reset (R46, R190). -/

namespace Sys2Proof.Machine

/-- `STATUS` (R33). The reserved codes 6 and 7 are "never held" and are no value here. -/
inductive Status where
  | idle | ready | running | stopped | halted | faulted
deriving DecidableEq, Repr

/-- `MODE` (R34). -/
inductive Mode where
  | full | untilOut
deriving DecidableEq, Repr

/-- `FAULT` (R35, R160); `noFault` is the value NONE. -/
inductive FaultCode where
  | noFault | invalidOpcode | invalidOperand | malformedProgram
deriving DecidableEq, Repr

/-- Which of A, B, C, PROG, N, `pc` and TAPE hold a value (R41, R46): this is the spec's own "holds no value",
which the host's reads see (R43) and no instruction does (log entry 3). -/
inductive Held where
  /-- After power-on reset: `pc` is 0 and TAPE empty, A, B, C, PROG and N hold no value (R190). The host cannot read TAPE
  yet (93_implementation_defined.md U10). -/
  | powerOn
  /-- After a LOAD that failed its check: none of the seven holds a value (R41). -/
  | loadFailed
  /-- After a successful LOAD: all seven do (R41). -/
  | loaded
deriving DecidableEq, Repr

/-- Why the machine stops with a fault. The three faults of R160 are not here: the core takes them itself, as a
next state with STATUS = FAULTED (R165). -/
inductive Fault where
  /-- `out` on a tape that holds `TAPE_CAPACITY` digits already, in an implementation that bounds it (R5, R30; the
  spec: "a model must treat it as a fault"). Raised by `Sys2Proof.Machine.commit`, only for `out`. Safe. -/
  | tapeOverflow
deriving DecidableEq, Repr

/-- Why the model gives no next state or no value. -/
inductive Refusal where
  /-- The instruction has no meaning yet; only an arm of `exec` would answer it (none does). Safe. -/
  | notModelled (mnemonic : String)
  /-- A LOAD of more elements than `MAX_PROG_LEN` in an implementation that bounds it (R5); raised by
  `Sys2Proof.Machine.hostLoad`. The spec gives no effect. Safe. -/
  | programTooLong
  /-- `ProgRead(i)` for an index the program does not have (R52 calls it undefined, 93 U13 "refuse"); raised by
  `step`, in no state at all. Safe. -/
  | progReadOutside
  /-- A host read while STATUS = RUNNING (R43); raised by `Sys2Proof.Machine.hostRead`. Safe. -/
  | readWhileRunning
  /-- A host read of state that holds no value (R41, R46), or of TAPE before any successful LOAD (93 U10); raised by `Sys2Proof.Machine.hostRead`. Safe. -/
  | readHoldsNoValue
deriving DecidableEq, Repr

/-- The state of the 3-bit VM core (R20–R36; R37: "exactly that"). -/
structure State where
  /-- Register A (R20). -/
  a : Word
  /-- Register B (R20). -/
  b : Word
  /-- Register C (R20). -/
  c : Word
  /-- The program counter, an element index; a natural number that never wraps (R24, R27). -/
  pc : Nat
  /-- The output tape, oldest digit first (R30). -/
  tape : List Octal
  /-- The program store PROG, element `i` at position `i` (R32, R51); `N` is its length. -/
  prog : List Nat
  /-- `STATUS` (R33). -/
  status : Status
  /-- `MODE` (R34). -/
  mode : Mode
  /-- `FAULT` (R35). -/
  fault : FaultCode
  /-- `FAULT_AT` (R36); `none` is the spec's own value `none`. -/
  faultAt : Option Nat
  /-- Which run state holds a value (R41, R46). -/
  held : Held
  /-- The OPEN parameters of R5, constant for a machine: nothing writes them. -/
  params : Config.Params
deriving DecidableEq, Repr

/-- The core right after power-on reset, for given OPEN parameters (R46, R190). The values 0 of A, B and C and the
empty PROG stand where the spec says "no value" (DESIGN CHOICE, log entries 1 and 2). -/
def State.powerOn (p : Config.Params) : State :=
  { a := 0, b := 0, c := 0, pc := 0, tape := [], prog := [],
    status := .idle, mode := .full, fault := .noFault, faultAt := none,
    held := .powerOn, params := p }

/-- The core right after power-on reset, with the OPEN parameters at their default (R5, R190). -/
def State.reset : State := State.powerOn Config.Params.unbounded

end Sys2Proof.Machine
end

