-- ==== Sys2Proof/Machine/Ops.lean ====
section
/-! DEFINITION. The named operations of R7 and R8 over the state: register reads, element reads, the tape,
the commit of an instruction (R106, R107), fault entry (R165), the halt (R101), and the numeric codes of
the status registers (R33–R35). -/

namespace Sys2Proof.Machine

/-- The outcome of an instruction or a step. -/
abbrev Result := Host.Outcome State Fault Refusal

/-- `x[r]` of R8. -/
def readReg (r : Reg) (s : State) : Word :=
  match r with
  | .a => s.a
  | .b => s.b
  | .c => s.c

/-- `x[r] <- v` of R8. -/
def writeReg (r : Reg) (v : Word) (s : State) : State :=
  match r with
  | .a => { s with a := v }
  | .b => { s with b := v }
  | .c => { s with c := v }

/-- `ProgRead(i)` of R8 and R52; `none` outside `0 .. N−1`, where the spec leaves it undefined. -/
def progRead (i : Nat) (s : State) : Option Nat := s.prog[i]?

/-- `x >> k = floor(x / 2^k)` for every natural `k` (R7): 0 from the register width on. -/
def shiftRight (v k : Word) : Word := if 64 ≤ k.toNat then 0 else v >>> k.toNat

/-- `x mod 8`, the bits 2–0 (R7), as a 3-bit value. -/
def mod8 (v : Word) : Octal := v.setWidth 3

/-- `zext_W(v)` of R7 for a 3-bit value. -/
def zext (x : Octal) : Word := x.setWidth 64

/-- What an instruction computes from the snapshot (R105): the new A, B, C and `pc`, and an optional digit. -/
structure Effect where
  a : Word
  b : Word
  c : Word
  pc : Nat
  digit : Option Octal
deriving DecidableEq, Repr

/-- The effect that changes nothing but advances `pc` by 2 (R25). -/
def advance (s : State) : Effect :=
  { a := s.a, b := s.b, c := s.c, pc := s.pc + 2, digit := none }

/-- The register and `pc` writes of R107, committed together (R106). -/
def writeBack (e : Effect) (s : State) : State :=
  { s with a := e.a, b := e.b, c := e.c, pc := e.pc }

/-- Whether TAPE_CAPACITY leaves room for one more digit (R30). -/
def tapeHasRoom (s : State) : Bool :=
  match s.params.tapeCapacity with
  | none => true
  | some cap => s.tape.length < cap

/-- `TapeAppend(d)` of R31. -/
def appendDigit (d : Octal) (s : State) : State := { s with tape := s.tape ++ [d] }

/-- The last line of R107 and R150: an `out` ends an UNTIL_OUT run (R109). -/
def stopAfterOut (s : State) : State :=
  match s.mode with
  | .untilOut => { s with status := .stopped }
  | .full => s

/-- The commit of R107: registers and `pc`, then the digit of an `out` and the end of an UNTIL_OUT run. A digit
with no room for it is the fault of 92_eei_decisions.md D19, and nothing is committed. -/
def commit (e : Effect) (s : State) : Result :=
  match e.digit with
  | none => .next (writeBack e s)
  | some d =>
    if tapeHasRoom s then .next (stopAfterOut (appendDigit d (writeBack e s)))
    else .fault .tapeOverflow

/-- Fault entry (R165): STATUS, FAULT and FAULT_AT, and nothing else. It has no return (R167). -/
def enterFault (code : FaultCode) (info : Nat) (s : State) : State :=
  { s with status := .faulted, fault := code, faultAt := some info }

/-- The halt of R101: "no other state changes". -/
def enterHalt (s : State) : State := { s with status := .halted }

/-- The FAULT value of a decoder condition (R160). -/
def decodeFaultCode : DecodeFault → FaultCode
  | .invalidOpcode => .invalidOpcode
  | .invalidOperand => .invalidOperand

/-- The FAULT value of a failed LOAD check (R160). -/
def loadFaultCode : LoadFault → FaultCode
  | .malformedProgram => .malformedProgram
  | .illegalPair f => decodeFaultCode f

/-- The 3-bit code of STATUS (R33). -/
def statusCode : Status → BitVec 3
  | .idle => 0
  | .ready => 1
  | .running => 2
  | .stopped => 3
  | .halted => 4
  | .faulted => 5

/-- The STATUS of a code; 6 and 7 are reserved, "never held" (R33). -/
def statusOfCode (v : BitVec 3) : Option Status :=
  match v.toNat with
  | 0 => some .idle
  | 1 => some .ready
  | 2 => some .running
  | 3 => some .stopped
  | 4 => some .halted
  | 5 => some .faulted
  | _ => none

/-- The 1-bit code of MODE (R34). -/
def modeCode : Mode → BitVec 1
  | .full => 0
  | .untilOut => 1

/-- The 2-bit code of FAULT (R35, R160). -/
def faultCodeBits : FaultCode → BitVec 2
  | .noFault => 0
  | .invalidOpcode => 1
  | .invalidOperand => 2
  | .malformedProgram => 3

/-- The state with the pair `op`, `x` at the element index where the next fetch reads (R102), and the engine
running, as a LOAD and a RUN leave it (log entry 6). Elements missing below `pc` are 0. -/
def placePair (op x : Nat) (s : State) : State :=
  { s with
    prog := s.prog.take s.pc ++ List.replicate (s.pc - s.prog.length) 0 ++ op :: x :: s.prog.drop (s.pc + 2)
    status := .running
    held := .loaded }

end Sys2Proof.Machine
end

