-- ==== Sys2Proof/Machine/Cycle.lean ====
section
/-! DEFINITION. What a step finds to do before it executes: the status, the halt check (R101), the fetch (R102)
and the decode (R103). -/

namespace Sys2Proof.Machine

/-- What a step finds. -/
inductive Fetched where
  /-- STATUS ≠ RUNNING: the engine does not step (R100, R107). -/
  | idle
  /-- No instruction pair at `pc` (R101). -/
  | halt
  /-- The decoder raises a fault (R103). -/
  | illegal (f : DecodeFault)
  /-- An instruction to execute (R105). -/
  | run (i : Instr)
  /-- An element read outside the program (R52): it never happens. -/
  | outside
deriving DecidableEq, Repr

/-- R101–R103 for a running engine. -/
def fetchPair (s : State) : Fetched :=
  if s.prog.length ≤ s.pc + 1 then .halt
  else
    match progRead s.pc s, progRead (s.pc + 1) s with
    | some op, some x =>
      match decode op x with
      | .ok i => .run i
      | .error f => .illegal f
    | _, _ => .outside

/-- R100: the engine steps only while STATUS = RUNNING. -/
def fetch (s : State) : Fetched :=
  match s.status with
  | .running => fetchPair s
  | _ => .idle

end Sys2Proof.Machine
end

