-- ==== Sys2Proof/Machine/Operands.lean ====
section
/-! DEFINITION. The operand forms: combo (R75), literal (R76) and ignored (R77). -/

namespace Sys2Proof.Machine

/-- The source a combo operand names (R75, R80); `none` for 7, which is invalid. -/
def comboSource (x : Octal) : Option ComboSource :=
  match x.toNat with
  | 0 | 1 | 2 | 3 => some (.literal x)
  | 4 => some (.register .a)
  | 5 => some (.register .b)
  | 6 => some (.register .c)
  | _ => none

/-- The value of a combo source in the snapshot `s` (R75). -/
def sourceValue (src : ComboSource) (s : State) : Word :=
  match src with
  | .literal n => zext n
  | .register r => readReg r s

/-- `combo(x)` of R75 in the snapshot `s`; `none` where it raises InvalidOperand. -/
def combo (x : Octal) (s : State) : Option Word := (comboSource x).map (sourceValue · s)

/-- An instruction of combo kind: its effect from the operand's value, or InvalidOperand at its own `pc` with no
other effect (R75, R165). -/
def withCombo (x : Octal) (s : State) (effect : Word → Effect) : Result :=
  match combo x s with
  | some k => commit (effect k) s
  | none => .next (enterFault .invalidOperand s.pc s)

/-- `lit(x)` for `bxl` (R76). -/
def literalWord (x : Octal) : Word := zext x

/-- The literal operand of `jnz` as a `pc` target: an absolute element index (R76, R141). -/
def literalTarget (x : Octal) : Nat := x.toNat

end Sys2Proof.Machine
end

