-- ==== Sys2Proof/Machine/Bitwise.lean ====
section
/-! DEFINITION. The bitwise family: `bxl` (R130), `bst` (R131), `bxc` (R132). -/

namespace Sys2Proof.Machine

/-- R130: `B <- B xor zext_W(x)`. -/
def execBxl (x : Octal) (s : State) : Result :=
  commit { advance s with b := s.b ^^^ literalWord x } s

/-- R131: `B <- combo(x) mod 8`. -/
def execBst (x : Octal) (s : State) : Result :=
  withCombo x s fun k => { advance s with b := zext (mod8 k) }

/-- R132: `B <- B xor C`; the operand is ignored (R77). -/
def execBxc (_x : Octal) (s : State) : Result :=
  commit { advance s with b := s.b ^^^ s.c } s

end Sys2Proof.Machine
end

