-- ==== Sys2Proof/Machine/Flags.lean ====
section
/-! DEFINITION. The core has no flags (R29); the one condition of the ISA is `jnz`'s test of register A. -/

namespace Sys2Proof.Machine

/-- "tests register `A` against zero directly" (R29, R140). -/
def aNonzero (s : State) : Bool := s.a != 0

end Sys2Proof.Machine
end

