-- ==== Sys2Proof/Machine/Control.lean ====
section
/-! DEFINITION. The control family: `jnz` (R140). -/

namespace Sys2Proof.Machine

/-- R140: with A ≠ 0 the literal replaces `pc`; otherwise `pc` advances. -/
def execJnz (x : Octal) (s : State) : Result :=
  if aNonzero s then commit { advance s with pc := literalTarget x } s
  else commit (advance s) s

end Sys2Proof.Machine
end

