-- ==== Sys2Proof/Machine/Output.lean ====
section
/-! DEFINITION. The output family: `out` (R150). -/

namespace Sys2Proof.Machine

/-- R150: append `combo(x) mod 8` to the tape; in mode UNTIL_OUT the run stops (R109). -/
def execOut (x : Octal) (s : State) : Result :=
  withCombo x s fun k => { advance s with digit := some (mod8 k) }

end Sys2Proof.Machine
end

