-- ==== Sys2Proof/Machine/Shift.lean ====
section
/-! DEFINITION. The shift family: `adv` (R120), `bdv` (R121), `cdv` (R122). -/

namespace Sys2Proof.Machine

/-- R120: `A <- floor(A / 2^combo(x))`. -/
def execAdv (x : Octal) (s : State) : Result :=
  withCombo x s fun k => { advance s with a := shiftRight s.a k }

/-- R121: `B <- floor(A / 2^combo(x))`. -/
def execBdv (x : Octal) (s : State) : Result :=
  withCombo x s fun k => { advance s with b := shiftRight s.a k }

/-- R122: `C <- floor(A / 2^combo(x))`. -/
def execCdv (x : Octal) (s : State) : Result :=
  withCombo x s fun k => { advance s with c := shiftRight s.a k }

end Sys2Proof.Machine
end

