-- ==== Sys2Proof/Machine/Step.lean ====
section
/-! DEFINITION. The engine's step (R107). -/

namespace Sys2Proof.Machine

/-- One step of R107. Outside RUNNING the core "simply holds its state" (R178; log entry 5). -/
def step (s : State) : Host.Outcome State Fault Refusal :=
  match fetch s with
  | .idle => .next s
  | .halt => .next (enterHalt s)
  | .illegal f => .next (enterFault (decodeFaultCode f) s.pc s)
  | .run i => exec i s
  | .outside => .refused .progReadOutside

/-- The state in which the next step fetches and runs the opcode-table word `w` (R71, R102; log entry 6). -/
def State.withFetchWord (s : State) (nbits w : Nat) : State :=
  placePair (tableElements nbits w).1 (tableElements nbits w).2 s

end Sys2Proof.Machine
end

