-- ==== Sys2Proof/Machine/HostPort.lean ====
section
/-! DEFINITION. The host interface (R40–R45): the commands LOAD and RUN, the readback, and the result of a run. -/

namespace Sys2Proof.Machine

/-- The commands of R40. A register value wider than `W` bits cannot be presented (R23). -/
inductive Command where
  | load (prog : List Nat) (a b c : Word)
  | run (mode : Mode)
deriving DecidableEq, Repr

/-- Whether MAX_PROG_LEN admits the program (R5). -/
def progFits (p : Config.Params) (prog : List Nat) : Bool :=
  match p.maxProgLen with
  | none => true
  | some m => prog.length ≤ m

/-- The successful branch of R41. MODE is unchanged (R46). -/
def install (prog : List Nat) (a b c : Word) (s : State) : State :=
  { s with
    prog := prog, a := a, b := b, c := c, pc := 0, tape := []
    fault := .noFault, faultAt := none, status := .ready, held := .loaded }

/-- After a failed LOAD "PROG, N, A, B, C, pc, TAPE hold no value" (R41). No read sees the values that stand in the
fields (log entry 3). -/
def dropContents (s : State) : State :=
  { s with a := 0, b := 0, c := 0, pc := 0, tape := [], prog := [], held := .loadFailed }

/-- `LOAD(prog, a, b, c)` of R41; refused with no state change while RUNNING (R45). -/
def hostLoad (prog : List Nat) (a b c : Word) (s : State) : Result :=
  if s.status = .running then .next s
  else if progFits s.params prog then
    match loadCheck prog with
    | none => .next (install prog a b c s)
    | some (f, info) => .next (enterFault (loadFaultCode f) info (dropContents s))
  else .refused .programTooLong

/-- The effect of an accepted RUN (R42). -/
def startRun (mode : Mode) (s : State) : State := { s with mode := mode, status := .running }

/-- `RUN(mode)` of R42; refused with no state change unless READY or STOPPED (R45). -/
def hostRun (mode : Mode) (s : State) : State :=
  match s.status with
  | .ready | .stopped => startRun mode s
  | _ => s

/-- A command as one atomic transaction (R40). -/
def hostCommand (cmd : Command) (s : State) : Result :=
  match cmd with
  | .load prog a b c => hostLoad prog a b c s
  | .run mode => .next (hostRun mode s)

/-- Whether the core accepts the command; if not, it "counts as a host protocol error" (R45). -/
def accepts (cmd : Command) (s : State) : Bool :=
  match cmd with
  | .load _ _ _ _ => s.status != .running
  | .run _ => s.status == .ready || s.status == .stopped

/-- What the host can read (R43). PROG is not among them (R51). -/
inductive ReadItem where
  | a | b | c | pc | tape | status | mode | fault | faultAt
deriving DecidableEq, Repr

/-- The value of a read (R40): each register in its own width. -/
inductive ReadValue where
  | word (v : Word)
  | index (n : Nat)
  | digits (t : List Octal)
  | status (v : BitVec 3)
  | mode (v : BitVec 1)
  | fault (v : BitVec 2)
  | faultAt (v : Option Nat)
deriving DecidableEq, Repr

/-- Whether the host can read an item outside RUNNING: not one that holds no value (R41, R46), and not TAPE before any
successful LOAD (93_implementation_defined.md U10, log entry 4). -/
def readable (item : ReadItem) (h : Held) : Bool :=
  match h, item with
  | .loaded, _ => true
  | .powerOn, .a | .powerOn, .b | .powerOn, .c | .powerOn, .tape => false
  | .powerOn, _ => true
  | .loadFailed, .a | .loadFailed, .b | .loadFailed, .c | .loadFailed, .pc | .loadFailed, .tape => false
  | .loadFailed, _ => true

/-- The value an item has. -/
def itemValue (item : ReadItem) (s : State) : ReadValue :=
  match item with
  | .a => .word s.a
  | .b => .word s.b
  | .c => .word s.c
  | .pc => .index s.pc
  | .tape => .digits s.tape
  | .status => .status (statusCode s.status)
  | .mode => .mode (modeCode s.mode)
  | .fault => .fault (faultCodeBits s.fault)
  | .faultAt => .faultAt s.faultAt

/-- Readback (R43): refused while RUNNING and for an item that cannot be read. It returns no state: "A read never
changes state". -/
def hostRead (item : ReadItem) (s : State) : Except Refusal ReadValue :=
  if s.status = .running then .error .readWhileRunning
  else if readable item s.held then .ok (itemValue item s)
  else .error .readHoldsNoValue

/-- The result of a run (R44). -/
inductive RunResult where
  /-- FULL, HALTED: the complete tape and the final registers. -/
  | complete (tape : List Octal) (a b c : Word)
  /-- UNTIL_OUT, STOPPED: the digit of the `out` that stopped the run. -/
  | digit (d : Octal)
  /-- UNTIL_OUT, HALTED: "no digit". -/
  | noDigit
  /-- FAULTED: the fault and where; the tape is not a result. -/
  | fault (code : FaultCode) (at_ : Option Nat)
deriving DecidableEq, Repr

/-- R44: the result a state gives its host; `none` while there is none. In mode UNTIL_OUT an `out` since the RUN
would have stopped the run (R109), so HALTED there means that none has executed. -/
def runResult (s : State) : Option RunResult :=
  match s.status, s.mode with
  | .halted, .full => some (.complete s.tape s.a s.b s.c)
  | .halted, .untilOut => some .noDigit
  | .stopped, .untilOut => s.tape.getLast?.map .digit
  | .faulted, _ => some (.fault s.fault s.faultAt)
  | _, _ => none

end Sys2Proof.Machine
end

