-- ==== Sys2Proof/Laws/State.lean ====
section
/-! SUPPORT. One lemma per field per named update of the state, so that no later proof unfolds a record update. -/

namespace Sys2Proof.Machine

section WriteBack

@[simp] theorem writeBack_a (e : Effect) (s : State) : (writeBack e s).a = e.a := rfl
@[simp] theorem writeBack_b (e : Effect) (s : State) : (writeBack e s).b = e.b := rfl
@[simp] theorem writeBack_c (e : Effect) (s : State) : (writeBack e s).c = e.c := rfl
@[simp] theorem writeBack_pc (e : Effect) (s : State) : (writeBack e s).pc = e.pc := rfl
@[simp] theorem writeBack_tape (e : Effect) (s : State) : (writeBack e s).tape = s.tape := rfl
@[simp] theorem writeBack_prog (e : Effect) (s : State) : (writeBack e s).prog = s.prog := rfl
@[simp] theorem writeBack_status (e : Effect) (s : State) : (writeBack e s).status = s.status := rfl
@[simp] theorem writeBack_mode (e : Effect) (s : State) : (writeBack e s).mode = s.mode := rfl
@[simp] theorem writeBack_fault (e : Effect) (s : State) : (writeBack e s).fault = s.fault := rfl
@[simp] theorem writeBack_faultAt (e : Effect) (s : State) : (writeBack e s).faultAt = s.faultAt := rfl
@[simp] theorem writeBack_held (e : Effect) (s : State) : (writeBack e s).held = s.held := rfl
@[simp] theorem writeBack_params (e : Effect) (s : State) : (writeBack e s).params = s.params := rfl

end WriteBack

section AppendDigit

@[simp] theorem appendDigit_a (d : Octal) (s : State) : (appendDigit d s).a = s.a := rfl
@[simp] theorem appendDigit_b (d : Octal) (s : State) : (appendDigit d s).b = s.b := rfl
@[simp] theorem appendDigit_c (d : Octal) (s : State) : (appendDigit d s).c = s.c := rfl
@[simp] theorem appendDigit_pc (d : Octal) (s : State) : (appendDigit d s).pc = s.pc := rfl
@[simp] theorem appendDigit_tape (d : Octal) (s : State) : (appendDigit d s).tape = s.tape ++ [d] := rfl
@[simp] theorem appendDigit_prog (d : Octal) (s : State) : (appendDigit d s).prog = s.prog := rfl
@[simp] theorem appendDigit_status (d : Octal) (s : State) : (appendDigit d s).status = s.status := rfl
@[simp] theorem appendDigit_mode (d : Octal) (s : State) : (appendDigit d s).mode = s.mode := rfl
@[simp] theorem appendDigit_fault (d : Octal) (s : State) : (appendDigit d s).fault = s.fault := rfl
@[simp] theorem appendDigit_faultAt (d : Octal) (s : State) : (appendDigit d s).faultAt = s.faultAt := rfl
@[simp] theorem appendDigit_held (d : Octal) (s : State) : (appendDigit d s).held = s.held := rfl
@[simp] theorem appendDigit_params (d : Octal) (s : State) : (appendDigit d s).params = s.params := rfl

end AppendDigit

section StopAfterOut

@[simp] theorem stopAfterOut_a (s : State) : (stopAfterOut s).a = s.a := by
  unfold stopAfterOut; split <;> rfl
@[simp] theorem stopAfterOut_b (s : State) : (stopAfterOut s).b = s.b := by
  unfold stopAfterOut; split <;> rfl
@[simp] theorem stopAfterOut_c (s : State) : (stopAfterOut s).c = s.c := by
  unfold stopAfterOut; split <;> rfl
@[simp] theorem stopAfterOut_pc (s : State) : (stopAfterOut s).pc = s.pc := by
  unfold stopAfterOut; split <;> rfl
@[simp] theorem stopAfterOut_tape (s : State) : (stopAfterOut s).tape = s.tape := by
  unfold stopAfterOut; split <;> rfl
@[simp] theorem stopAfterOut_prog (s : State) : (stopAfterOut s).prog = s.prog := by
  unfold stopAfterOut; split <;> rfl
@[simp] theorem stopAfterOut_mode (s : State) : (stopAfterOut s).mode = s.mode := by
  unfold stopAfterOut; split <;> rfl
@[simp] theorem stopAfterOut_fault (s : State) : (stopAfterOut s).fault = s.fault := by
  unfold stopAfterOut; split <;> rfl
@[simp] theorem stopAfterOut_faultAt (s : State) : (stopAfterOut s).faultAt = s.faultAt := by
  unfold stopAfterOut; split <;> rfl
@[simp] theorem stopAfterOut_held (s : State) : (stopAfterOut s).held = s.held := by
  unfold stopAfterOut; split <;> rfl
@[simp] theorem stopAfterOut_params (s : State) : (stopAfterOut s).params = s.params := by
  unfold stopAfterOut; split <;> rfl
theorem stopAfterOut_full {s : State} (h : s.mode = .full) : stopAfterOut s = s := by
  simp only [stopAfterOut, h]

theorem stopAfterOut_untilOut {s : State} (h : s.mode = .untilOut) :
    stopAfterOut s = { s with status := .stopped } := by
  simp only [stopAfterOut, h]

end StopAfterOut

section EnterFault

@[simp] theorem enterFault_a (f : FaultCode) (n : Nat) (s : State) : (enterFault f n s).a = s.a := rfl
@[simp] theorem enterFault_b (f : FaultCode) (n : Nat) (s : State) : (enterFault f n s).b = s.b := rfl
@[simp] theorem enterFault_c (f : FaultCode) (n : Nat) (s : State) : (enterFault f n s).c = s.c := rfl
@[simp] theorem enterFault_pc (f : FaultCode) (n : Nat) (s : State) : (enterFault f n s).pc = s.pc := rfl
@[simp] theorem enterFault_tape (f : FaultCode) (n : Nat) (s : State) : (enterFault f n s).tape = s.tape := rfl
@[simp] theorem enterFault_prog (f : FaultCode) (n : Nat) (s : State) : (enterFault f n s).prog = s.prog := rfl
@[simp] theorem enterFault_status (f : FaultCode) (n : Nat) (s : State) : (enterFault f n s).status = .faulted := rfl
@[simp] theorem enterFault_mode (f : FaultCode) (n : Nat) (s : State) : (enterFault f n s).mode = s.mode := rfl
@[simp] theorem enterFault_fault (f : FaultCode) (n : Nat) (s : State) : (enterFault f n s).fault = f := rfl
@[simp] theorem enterFault_faultAt (f : FaultCode) (n : Nat) (s : State) : (enterFault f n s).faultAt = some n := rfl
@[simp] theorem enterFault_held (f : FaultCode) (n : Nat) (s : State) : (enterFault f n s).held = s.held := rfl
@[simp] theorem enterFault_params (f : FaultCode) (n : Nat) (s : State) : (enterFault f n s).params = s.params := rfl

end EnterFault

section EnterHalt

@[simp] theorem enterHalt_a (s : State) : (enterHalt s).a = s.a := rfl
@[simp] theorem enterHalt_b (s : State) : (enterHalt s).b = s.b := rfl
@[simp] theorem enterHalt_c (s : State) : (enterHalt s).c = s.c := rfl
@[simp] theorem enterHalt_pc (s : State) : (enterHalt s).pc = s.pc := rfl
@[simp] theorem enterHalt_tape (s : State) : (enterHalt s).tape = s.tape := rfl
@[simp] theorem enterHalt_prog (s : State) : (enterHalt s).prog = s.prog := rfl
@[simp] theorem enterHalt_status (s : State) : (enterHalt s).status = .halted := rfl
@[simp] theorem enterHalt_mode (s : State) : (enterHalt s).mode = s.mode := rfl
@[simp] theorem enterHalt_fault (s : State) : (enterHalt s).fault = s.fault := rfl
@[simp] theorem enterHalt_faultAt (s : State) : (enterHalt s).faultAt = s.faultAt := rfl
@[simp] theorem enterHalt_held (s : State) : (enterHalt s).held = s.held := rfl
@[simp] theorem enterHalt_params (s : State) : (enterHalt s).params = s.params := rfl

end EnterHalt

section Install

@[simp] theorem install_a (l : List Nat) (x y z : Word) (s : State) : (install l x y z s).a = x := rfl
@[simp] theorem install_b (l : List Nat) (x y z : Word) (s : State) : (install l x y z s).b = y := rfl
@[simp] theorem install_c (l : List Nat) (x y z : Word) (s : State) : (install l x y z s).c = z := rfl
@[simp] theorem install_pc (l : List Nat) (x y z : Word) (s : State) : (install l x y z s).pc = 0 := rfl
@[simp] theorem install_tape (l : List Nat) (x y z : Word) (s : State) : (install l x y z s).tape = [] := rfl
@[simp] theorem install_prog (l : List Nat) (x y z : Word) (s : State) : (install l x y z s).prog = l := rfl
@[simp] theorem install_status (l : List Nat) (x y z : Word) (s : State) : (install l x y z s).status = .ready := rfl
@[simp] theorem install_mode (l : List Nat) (x y z : Word) (s : State) : (install l x y z s).mode = s.mode := rfl
@[simp] theorem install_fault (l : List Nat) (x y z : Word) (s : State) : (install l x y z s).fault = .noFault := rfl
@[simp] theorem install_faultAt (l : List Nat) (x y z : Word) (s : State) : (install l x y z s).faultAt = none := rfl
@[simp] theorem install_held (l : List Nat) (x y z : Word) (s : State) : (install l x y z s).held = .loaded := rfl
@[simp] theorem install_params (l : List Nat) (x y z : Word) (s : State) : (install l x y z s).params = s.params := rfl

end Install

section DropContents

@[simp] theorem dropContents_a (s : State) : (dropContents s).a = 0 := rfl
@[simp] theorem dropContents_b (s : State) : (dropContents s).b = 0 := rfl
@[simp] theorem dropContents_c (s : State) : (dropContents s).c = 0 := rfl
@[simp] theorem dropContents_pc (s : State) : (dropContents s).pc = 0 := rfl
@[simp] theorem dropContents_tape (s : State) : (dropContents s).tape = [] := rfl
@[simp] theorem dropContents_prog (s : State) : (dropContents s).prog = [] := rfl
@[simp] theorem dropContents_status (s : State) : (dropContents s).status = s.status := rfl
@[simp] theorem dropContents_mode (s : State) : (dropContents s).mode = s.mode := rfl
@[simp] theorem dropContents_fault (s : State) : (dropContents s).fault = s.fault := rfl
@[simp] theorem dropContents_faultAt (s : State) : (dropContents s).faultAt = s.faultAt := rfl
@[simp] theorem dropContents_held (s : State) : (dropContents s).held = .loadFailed := rfl
@[simp] theorem dropContents_params (s : State) : (dropContents s).params = s.params := rfl

end DropContents

section StartRun

@[simp] theorem startRun_a (m : Mode) (s : State) : (startRun m s).a = s.a := rfl
@[simp] theorem startRun_b (m : Mode) (s : State) : (startRun m s).b = s.b := rfl
@[simp] theorem startRun_c (m : Mode) (s : State) : (startRun m s).c = s.c := rfl
@[simp] theorem startRun_pc (m : Mode) (s : State) : (startRun m s).pc = s.pc := rfl
@[simp] theorem startRun_tape (m : Mode) (s : State) : (startRun m s).tape = s.tape := rfl
@[simp] theorem startRun_prog (m : Mode) (s : State) : (startRun m s).prog = s.prog := rfl
@[simp] theorem startRun_status (m : Mode) (s : State) : (startRun m s).status = .running := rfl
@[simp] theorem startRun_mode (m : Mode) (s : State) : (startRun m s).mode = m := rfl
@[simp] theorem startRun_fault (m : Mode) (s : State) : (startRun m s).fault = s.fault := rfl
@[simp] theorem startRun_faultAt (m : Mode) (s : State) : (startRun m s).faultAt = s.faultAt := rfl
@[simp] theorem startRun_held (m : Mode) (s : State) : (startRun m s).held = s.held := rfl
@[simp] theorem startRun_params (m : Mode) (s : State) : (startRun m s).params = s.params := rfl

end StartRun

section PlacePair

@[simp] theorem placePair_a (op x : Nat) (s : State) : (placePair op x s).a = s.a := rfl
@[simp] theorem placePair_b (op x : Nat) (s : State) : (placePair op x s).b = s.b := rfl
@[simp] theorem placePair_c (op x : Nat) (s : State) : (placePair op x s).c = s.c := rfl
@[simp] theorem placePair_pc (op x : Nat) (s : State) : (placePair op x s).pc = s.pc := rfl
@[simp] theorem placePair_tape (op x : Nat) (s : State) : (placePair op x s).tape = s.tape := rfl
@[simp] theorem placePair_status (op x : Nat) (s : State) : (placePair op x s).status = .running := rfl
@[simp] theorem placePair_mode (op x : Nat) (s : State) : (placePair op x s).mode = s.mode := rfl
@[simp] theorem placePair_fault (op x : Nat) (s : State) : (placePair op x s).fault = s.fault := rfl
@[simp] theorem placePair_faultAt (op x : Nat) (s : State) : (placePair op x s).faultAt = s.faultAt := rfl
@[simp] theorem placePair_held (op x : Nat) (s : State) : (placePair op x s).held = .loaded := rfl
@[simp] theorem placePair_params (op x : Nat) (s : State) : (placePair op x s).params = s.params := rfl

end PlacePair

section RegisterFile

@[simp] theorem readReg_writeReg_same (r : Reg) (v : Word) (s : State) : readReg r (writeReg r v s) = v := by
  cases r <;> rfl

theorem readReg_writeReg_other {r q : Reg} (h : q ≠ r) (v : Word) (s : State) :
    readReg q (writeReg r v s) = readReg q s := by
  cases r <;> cases q <;> first | rfl | exact absurd rfl h

@[simp] theorem writeReg_pc (r : Reg) (v : Word) (s : State) : (writeReg r v s).pc = s.pc := by
  cases r <;> rfl
@[simp] theorem writeReg_tape (r : Reg) (v : Word) (s : State) : (writeReg r v s).tape = s.tape := by
  cases r <;> rfl
@[simp] theorem writeReg_prog (r : Reg) (v : Word) (s : State) : (writeReg r v s).prog = s.prog := by
  cases r <;> rfl
@[simp] theorem writeReg_status (r : Reg) (v : Word) (s : State) : (writeReg r v s).status = s.status := by
  cases r <;> rfl
@[simp] theorem writeReg_mode (r : Reg) (v : Word) (s : State) : (writeReg r v s).mode = s.mode := by
  cases r <;> rfl
@[simp] theorem writeReg_fault (r : Reg) (v : Word) (s : State) : (writeReg r v s).fault = s.fault := by
  cases r <;> rfl
@[simp] theorem writeReg_faultAt (r : Reg) (v : Word) (s : State) : (writeReg r v s).faultAt = s.faultAt := by
  cases r <;> rfl
@[simp] theorem writeReg_held (r : Reg) (v : Word) (s : State) : (writeReg r v s).held = s.held := by
  cases r <;> rfl
@[simp] theorem writeReg_params (r : Reg) (v : Word) (s : State) : (writeReg r v s).params = s.params := by
  cases r <;> rfl

end RegisterFile

section PowerOn

@[simp] theorem powerOn_status (p : Config.Params) : (State.powerOn p).status = .idle := rfl
@[simp] theorem powerOn_mode (p : Config.Params) : (State.powerOn p).mode = .full := rfl
@[simp] theorem powerOn_fault (p : Config.Params) : (State.powerOn p).fault = .noFault := rfl
@[simp] theorem powerOn_faultAt (p : Config.Params) : (State.powerOn p).faultAt = none := rfl
@[simp] theorem powerOn_pc (p : Config.Params) : (State.powerOn p).pc = 0 := rfl
@[simp] theorem powerOn_tape (p : Config.Params) : (State.powerOn p).tape = [] := rfl
@[simp] theorem powerOn_held (p : Config.Params) : (State.powerOn p).held = .powerOn := rfl
@[simp] theorem powerOn_params (p : Config.Params) : (State.powerOn p).params = p := rfl

end PowerOn

end Sys2Proof.Machine
end

