-- ==== Sys2Proof/Laws/HostPort.lean ====
section
/-! SUPPORT. What a host command and a host read can answer, said once (R41–R45). -/

namespace Sys2Proof.Machine

/-- R43: no read during a run. -/
theorem hostRead_running {s : State} (h : s.status = .running) (item : ReadItem) :
    hostRead item s = .error .readWhileRunning := by
  simp only [hostRead, h, if_true]

/-- R43: outside a run an item that can be read gives its value. -/
theorem hostRead_readable {s : State} {item : ReadItem} (h : s.status ≠ .running) (hr : readable item s.held = true) :
    hostRead item s = .ok (itemValue item s) := by
  simp only [hostRead, h, hr, if_false, if_true]

/-- R41, R46, 93 U10: outside a run an item that cannot be read is refused. -/
theorem hostRead_unreadable {s : State} {item : ReadItem} (h : s.status ≠ .running) (hr : readable item s.held = false) :
    hostRead item s = .error .readHoldsNoValue := by
  simp [hostRead, h, hr]

/-- Everything a LOAD can answer (R41, R45): refused with no state change, refused for its length, installed, or FAULTED. -/
theorem hostLoad_cases (prog : List Nat) (a b c : Word) (s : State) :
    (s.status = .running ∧ hostLoad prog a b c s = .next s) ∨
    (s.status ≠ .running ∧ progFits s.params prog = false ∧ hostLoad prog a b c s = .refused .programTooLong) ∨
    (s.status ≠ .running ∧ progFits s.params prog = true ∧ loadCheck prog = none ∧
      hostLoad prog a b c s = .next (install prog a b c s)) ∨
    (∃ f info, s.status ≠ .running ∧ progFits s.params prog = true ∧ loadCheck prog = some (f, info) ∧
      hostLoad prog a b c s = .next (enterFault (loadFaultCode f) info (dropContents s))) := by
  by_cases hs : s.status = .running
  · exact .inl ⟨hs, by simp only [hostLoad, hs, if_true]⟩
  · cases hf : progFits s.params prog with
    | false => exact .inr (.inl ⟨hs, rfl, by simp [hostLoad, hs, hf]⟩)
    | true =>
      cases hc : loadCheck prog with
      | none => exact .inr (.inr (.inl ⟨hs, rfl, rfl, by simp [hostLoad, hs, hf, hc]⟩))
      | some p => exact .inr (.inr (.inr ⟨p.1, p.2, hs, rfl, rfl, by simp [hostLoad, hs, hf, hc]⟩))

/-- Everything a RUN can do (R42, R45). -/
theorem hostRun_cases (m : Mode) (s : State) :
    ((s.status = .ready ∨ s.status = .stopped) ∧ hostRun m s = startRun m s) ∨
    (s.status ≠ .ready ∧ s.status ≠ .stopped ∧ hostRun m s = s) := by
  unfold hostRun
  cases hs : s.status <;> simp

end Sys2Proof.Machine
end

