-- ==== Sys2Proof/Laws/PerInstr.lean ====
section
/-! SUPPORT. A fact about every instruction as text, one lemma per constructor: it is two elements, each 0–7 (R70). -/

namespace Sys2Proof.Laws.EncodesAsPair

/-- R70: the instruction is a pair of elements with values 0–7. -/
def Statement (i : Instr) : Prop := ∃ op x, encode i = [op, x] ∧ op < 8 ∧ x < 8

theorem adv (x : Octal) : Statement (.adv x) := ⟨0, x.toNat, rfl, by decide, x.isLt⟩
theorem bxl (x : Octal) : Statement (.bxl x) := ⟨1, x.toNat, rfl, by decide, x.isLt⟩
theorem bst (x : Octal) : Statement (.bst x) := ⟨2, x.toNat, rfl, by decide, x.isLt⟩
theorem jnz (x : Octal) : Statement (.jnz x) := ⟨3, x.toNat, rfl, by decide, x.isLt⟩
theorem bxc (x : Octal) : Statement (.bxc x) := ⟨4, x.toNat, rfl, by decide, x.isLt⟩
theorem out (x : Octal) : Statement (.out x) := ⟨5, x.toNat, rfl, by decide, x.isLt⟩
theorem bdv (x : Octal) : Statement (.bdv x) := ⟨6, x.toNat, rfl, by decide, x.isLt⟩
theorem cdv (x : Octal) : Statement (.cdv x) := ⟨7, x.toNat, rfl, by decide, x.isLt⟩

end Sys2Proof.Laws.EncodesAsPair
end

