-- ==== Sys2Proof/Laws/Ops.lean ====
section
/-! SUPPORT. What each shared operation can do, said once: the arithmetic of R7, the combo operand (R75), the commit
(R107), and the check of a LOAD (R86). -/

namespace Sys2Proof.Machine

/-- R7: the shift is the floor of the quotient, for every shift amount. -/
theorem shiftRight_toNat (v k : Word) : (shiftRight v k).toNat = v.toNat / 2 ^ k.toNat := by
  unfold shiftRight
  split
  · rename_i hk
    have hv : v.toNat < 2 ^ k.toNat := lt_of_lt_of_le v.isLt (Nat.pow_le_pow_right (by decide) hk)
    simp [Nat.div_eq_of_lt hv]
  · simp [Nat.shiftRight_eq_div_pow]

/-- R7: `mod 8`. -/
theorem mod8_toNat (v : Word) : (mod8 v).toNat = v.toNat % 8 := by
  simp [mod8]

/-- R7: zero extension keeps the value. -/
theorem zext_toNat (x : Octal) : (zext x).toNat = x.toNat := by
  have := x.isLt
  simp only [zext, BitVec.toNat_setWidth]
  omega

/-- R75: the only combo operand with no source is 7. -/
theorem comboSource_eq_none (x : Octal) : comboSource x = none ↔ x = 7 := by
  revert x; decide

/-- R75: the only combo operand with no value is 7. -/
theorem combo_eq_none (x : Octal) (s : State) : combo x s = none ↔ x = 7 := by
  simp [combo, comboSource_eq_none]

/-- R75: every combo operand other than 7 has a value. -/
theorem combo_some {x : Octal} (s : State) (h : x ≠ 7) : ∃ k, combo x s = some k := by
  cases hk : combo x s with
  | none => exact absurd ((combo_eq_none x s).mp hk) h
  | some k => exact ⟨k, rfl⟩

/-- A commit without a digit. -/
theorem commit_noDigit {e : Effect} (h : e.digit = none) (s : State) : commit e s = .next (writeBack e s) := by
  simp only [commit, h]

/-- Everything a commit can answer (R107): the write-back, the write-back with a digit appended, or the overflow. -/
theorem commit_cases (e : Effect) (s : State) :
    (e.digit = none ∧ commit e s = .next (writeBack e s)) ∨
    (∃ d, e.digit = some d ∧ tapeHasRoom s = true ∧
      commit e s = .next (stopAfterOut (appendDigit d (writeBack e s)))) ∨
    (∃ d, e.digit = some d ∧ tapeHasRoom s = false ∧ commit e s = .fault .tapeOverflow) := by
  unfold commit
  cases hd : e.digit with
  | none => exact .inl ⟨rfl, rfl⟩
  | some d =>
    cases hr : tapeHasRoom s with
    | true => exact .inr (.inl ⟨d, rfl, rfl, by simp⟩)
    | false => exact .inr (.inr ⟨d, rfl, rfl, by simp⟩)

/-- Everything an instruction of combo kind can answer (R75). -/
theorem withCombo_cases (x : Octal) (s : State) (g : Word → Effect) :
    (∃ k, combo x s = some k ∧ withCombo x s g = commit (g k) s) ∨
    (x = 7 ∧ withCombo x s g = .next (enterFault .invalidOperand s.pc s)) := by
  unfold withCombo
  cases hk : combo x s with
  | none => exact .inr ⟨(combo_eq_none x s).mp hk, rfl⟩
  | some k => exact .inl ⟨k, rfl, rfl⟩

/-- R30: room on the tape, as a bound. -/
theorem tapeHasRoom_iff (s : State) :
    tapeHasRoom s = true ↔ ∀ cap, s.params.tapeCapacity = some cap → s.tape.length < cap := by
  unfold tapeHasRoom
  cases s.params.tapeCapacity <;> simp

/-- R29: the one condition of the ISA. -/
theorem aNonzero_iff (s : State) : aNonzero s = true ↔ s.a ≠ 0 := by
  simp [aNonzero]

/-- R86: a listed pair that decodes passes, and the check goes on two indices later. -/
theorem checkPairs_legal {k op x : Nat} {rest : List Nat} {i : Instr} (h : decode op x = .ok i) :
    checkPairs k (op :: x :: rest) = checkPairs (k + 2) rest := by
  simp only [checkPairs, h]

/-- R86: a listed pair that the decoder refuses is the fault reported. -/
theorem checkPairs_illegal {k op x : Nat} {rest : List Nat} {f : DecodeFault} (h : decode op x = .error f) :
    checkPairs k (op :: x :: rest) = some (.illegalPair f, k) := by
  simp only [checkPairs, h]

/-- R86: a program passes exactly when its length is even and its pairs pass. -/
theorem loadCheck_eq_none (prog : List Nat) :
    loadCheck prog = none ↔ prog.length % 2 = 0 ∧ checkPairs 0 prog = none := by
  unfold loadCheck
  split <;> simp_all

end Sys2Proof.Machine
end

