-- ==== Sys2Proof/Machine/System.lean ====
section
/-! DEFINITION. The core together with its host: one transition is a host command or an engine step (R40, R47),
the OUT events the host sees (R31, R43), and a sequence of UNTIL_OUT runs (R111). -/

namespace Sys2Proof.Machine

/-- R47: the next state from the current state and the host's command, if it issues one (R40: a transaction is atomic
and overlaps no step). -/
def transition (cmd : Option Command) (s : State) : Result :=
  match cmd with
  | none => step s
  | some c => hostCommand c s

/-- A session: the host's actions in order, `none` letting the engine step. -/
def session : List (Option Command) → State → Result
  | [], s => .next s
  | cmd :: rest, s =>
    match transition cmd s with
    | .next t => session rest t
    | .fault f => .fault f
    | .refused r => .refused r

/-- `k` steps of the engine, with no host command between them (R100). -/
def steps : Nat → State → Result
  | 0, s => .next s
  | k + 1, s =>
    match step s with
    | .next t => steps k t
    | .fault f => .fault f
    | .refused r => .refused r

/-- The OUT event of the next step (R31): the digit it appends, if it executes an `out`. -/
def outEvent (s : State) : Option Octal :=
  match fetch s with
  | .run (.out x) => if tapeHasRoom s then (combo x s).map mod8 else none
  | _ => none

/-- The OUT events of the next `k` steps, in order: all the host sees of a run in progress (R43). -/
def outEvents : Nat → State → List Octal
  | 0, _ => []
  | k + 1, s =>
    match step s with
    | .next t => (outEvent s).toList ++ outEvents k t
    | _ => []

/-- The host of R111: it issues RUN(UNTIL_OUT) again whenever the run has stopped after an `out`. -/
def resumeUntilOut (s : State) : State :=
  match s.status with
  | .stopped => hostRun .untilOut s
  | _ => s

/-- `k` steps of a sequence of UNTIL_OUT runs (R111). -/
def untilOutRuns : Nat → State → Result
  | 0, s => .next s
  | k + 1, s =>
    match step s with
    | .next t => untilOutRuns k (resumeUntilOut t)
    | .fault f => .fault f
    | .refused r => .refused r

end Sys2Proof.Machine
end

