-- ==== Sys2Proof/Laws/Step.lean ====
section
/-! SUPPORT. What an instruction and a step can do, said once (R105–R107). -/

namespace Sys2Proof.Machine

/-- The digit-free effect of each instruction other than `out`, and `out`'s effect: what `exec` hands to the commit. -/
inductive Executes (s : State) : Instr → Effect → Prop where
  | adv {x k} (h : combo x s = some k) : Executes s (.adv x) { advance s with a := shiftRight s.a k }
  | bdv {x k} (h : combo x s = some k) : Executes s (.bdv x) { advance s with b := shiftRight s.a k }
  | cdv {x k} (h : combo x s = some k) : Executes s (.cdv x) { advance s with c := shiftRight s.a k }
  | bxl {x} : Executes s (.bxl x) { advance s with b := s.b ^^^ literalWord x }
  | bst {x k} (h : combo x s = some k) : Executes s (.bst x) { advance s with b := zext (mod8 k) }
  | bxc {x} : Executes s (.bxc x) { advance s with b := s.b ^^^ s.c }
  | jump {x} (h : s.a ≠ 0) : Executes s (.jnz x) { advance s with pc := literalTarget x }
  | fall {x} (h : s.a = 0) : Executes s (.jnz x) (advance s)
  | out {x k} (h : combo x s = some k) : Executes s (.out x) { advance s with digit := some (mod8 k) }

/-- Everything `exec` can answer: the commit of the instruction's effect, or InvalidOperand for an ill-formed term. -/
theorem exec_cases (i : Instr) (s : State) :
    (∃ e, Executes s i e ∧ exec i s = commit e s) ∨
    (wellFormed i = false ∧ exec i s = .next (enterFault .invalidOperand s.pc s)) := by
  cases i with
  | adv x =>
    obtain ⟨k, hk, h⟩ | ⟨rfl, h⟩ := withCombo_cases x s fun k => { advance s with a := shiftRight s.a k }
    · exact .inl ⟨_, .adv hk, h⟩
    · exact .inr ⟨rfl, h⟩
  | bst x =>
    obtain ⟨k, hk, h⟩ | ⟨rfl, h⟩ := withCombo_cases x s fun k => { advance s with b := zext (mod8 k) }
    · exact .inl ⟨_, .bst hk, h⟩
    · exact .inr ⟨rfl, h⟩
  | out x =>
    obtain ⟨k, hk, h⟩ | ⟨rfl, h⟩ := withCombo_cases x s fun k => { advance s with digit := some (mod8 k) }
    · exact .inl ⟨_, .out hk, h⟩
    · exact .inr ⟨rfl, h⟩
  | bdv x =>
    obtain ⟨k, hk, h⟩ | ⟨rfl, h⟩ := withCombo_cases x s fun k => { advance s with b := shiftRight s.a k }
    · exact .inl ⟨_, .bdv hk, h⟩
    · exact .inr ⟨rfl, h⟩
  | cdv x =>
    obtain ⟨k, hk, h⟩ | ⟨rfl, h⟩ := withCombo_cases x s fun k => { advance s with c := shiftRight s.a k }
    · exact .inl ⟨_, .cdv hk, h⟩
    · exact .inr ⟨rfl, h⟩
  | bxl x => exact .inl ⟨_, .bxl, rfl⟩
  | bxc x => exact .inl ⟨_, .bxc, rfl⟩
  | jnz x =>
    left
    by_cases ha : s.a = 0
    · exact ⟨_, .fall ha, by simp [exec, execJnz, aNonzero, ha]⟩
    · exact ⟨_, .jump ha, by simp only [exec, execJnz, (aNonzero_iff s).mpr ha, if_true]⟩

/-- R102: two elements that the program has. -/
theorem progRead_some {s : State} {n : Nat} (h : n < s.prog.length) : progRead n s = some s.prog[n] :=
  List.getElem?_eq_getElem h

/-- Everything a running engine can find (R101–R103). -/
theorem fetchPair_cases (s : State) :
    (s.prog.length ≤ s.pc + 1 ∧ fetchPair s = .halt) ∨
    (∃ op x, s.prog[s.pc]? = some op ∧ s.prog[s.pc + 1]? = some x ∧
      ((∃ i, decode op x = .ok i ∧ fetchPair s = .run i) ∨
       (∃ f, decode op x = .error f ∧ fetchPair s = .illegal f))) := by
  unfold fetchPair
  split
  · rename_i h
    exact .inl ⟨h, rfl⟩
  · rename_i h
    have h1 : s.pc + 1 < s.prog.length := by omega
    have h0 : s.pc < s.prog.length := by omega
    refine .inr ⟨s.prog[s.pc], s.prog[s.pc + 1], by simp [h0], by simp [h1], ?_⟩
    rw [progRead_some h0, progRead_some h1]
    cases hd : decode s.prog[s.pc] s.prog[s.pc + 1] with
    | ok i => exact .inl ⟨i, rfl, by simp [hd]⟩
    | error f => exact .inr ⟨f, rfl, by simp [hd]⟩

/-- Everything a step can be (R100–R107): idle, the halt, a decoder fault, or an instruction. -/
theorem step_cases (s : State) :
    (s.status ≠ .running ∧ step s = .next s) ∨
    (s.status = .running ∧ s.prog.length ≤ s.pc + 1 ∧ step s = .next (enterHalt s)) ∨
    (∃ op x, s.status = .running ∧ s.prog[s.pc]? = some op ∧ s.prog[s.pc + 1]? = some x ∧
      ((∃ i, decode op x = .ok i ∧ step s = exec i s) ∨
       (∃ f, decode op x = .error f ∧ step s = .next (enterFault (decodeFaultCode f) s.pc s)))) := by
  by_cases hs : s.status = .running
  · have hf : fetch s = fetchPair s := by simp only [fetch, hs]
    obtain ⟨h, he⟩ | ⟨op, x, h0, h1, ⟨i, hd, he⟩ | ⟨f, hd, he⟩⟩ := fetchPair_cases s
    · exact .inr (.inl ⟨hs, h, by simp only [step, hf, he]⟩)
    · exact .inr (.inr ⟨op, x, hs, h0, h1, .inl ⟨i, hd, by simp only [step, hf, he]⟩⟩)
    · exact .inr (.inr ⟨op, x, hs, h0, h1, .inr ⟨f, hd, by simp only [step, hf, he]⟩⟩)
  · refine .inl ⟨hs, ?_⟩
    have hf : fetch s = .idle := by
      unfold fetch
      split
      · rename_i h; exact absurd h hs
      · rfl
    simp only [step, hf]

end Sys2Proof.Machine
end

