-- ==== Sys2Proof/Machine/Text.lean ====
section
/-! DEFINITION. The toolchain's notation: assembling and disassembling a program (R90, R91) and the host's
rendering of the tape (R151). None of it is a function of the core. -/

namespace Sys2Proof.Machine

/-- The lower-case mnemonic (R72, R90). -/
def mnemonic : Instr → String
  | .adv _ => "adv"
  | .bxl _ => "bxl"
  | .bst _ => "bst"
  | .jnz _ => "jnz"
  | .bxc _ => "bxc"
  | .out _ => "out"
  | .bdv _ => "bdv"
  | .cdv _ => "cdv"

/-- An octal digit's decimal character (R90, R151). -/
def digitText (d : Octal) : String :=
  match d.toNat with
  | 0 => "0"
  | 1 => "1"
  | 2 => "2"
  | 3 => "3"
  | 4 => "4"
  | 5 => "5"
  | 6 => "6"
  | _ => "7"

/-- One line of assembly: mnemonic, one space, operand; the operand is written even for `bxc` (R90). -/
def assemblyLine (i : Instr) : String := mnemonic i ++ " " ++ digitText (operandOf i)

/-- "a program to the concatenation of its instructions' elements" (R90). -/
def assemble (is : List Instr) : List Nat := is.flatMap encode

/-- The listed pairs `(0,1), (2,3), …` of a program (R91). -/
def listedPairs : List Nat → List (Nat × Nat)
  | op :: x :: rest => (op, x) :: listedPairs rest
  | _ => []

/-- Disassembly of a listing (R91): the instructions an even `pc` executes; `none` if a listed pair is no
instruction or an element is left over. -/
def disassemble : List Nat → Option (List Instr)
  | [] => some []
  | [_] => none
  | op :: x :: rest =>
    match decode op x, disassemble rest with
    | .ok i, some is => some (i :: is)
    | _, _ => none

/-- The host's rendering of a tape (R151): decimal digits joined by commas; the empty tape is the empty string. -/
def renderTape (t : List Octal) : String := ",".intercalate (t.map digitText)

end Sys2Proof.Machine
end

