-- ==== Sys2Proof/Safety.lean ====
section
/-! DEFINITION. The terms claims use: the invariant of every state the core can be in, the registers an instruction
reads and writes (R21), the map of a result's next state, and the caller's contract of UNTIL_OUT (R112). -/

namespace Sys2Proof

open Sys2Proof.Machine

/-- What holds in every state the core can be in, whatever its host does. -/
structure CoreInv (s : State) : Prop where
  /-- IDLE is held from power-on until the first LOAD, and no longer (R33, R41). -/
  idle_iff : s.status = .idle ↔ s.held = .powerOn
  /-- Until the first LOAD, `pc`, TAPE and MODE have their reset values (R46). -/
  powerOn_values : s.held = .powerOn → s.pc = 0 ∧ s.tape = [] ∧ s.mode = .full
  /-- A LOAD that failed leaves the core FAULTED (R41). -/
  loadFailed_faulted : s.held = .loadFailed → s.status = .faulted
  /-- A loaded program has passed the check (R41, R85). -/
  loaded_checked : s.held = .loaded → loadCheck s.prog = none
  /-- A loaded program fits MAX_PROG_LEN (R5). -/
  loaded_fits : s.held = .loaded → progFits s.params s.prog = true
  /-- R27. -/
  pc_bound : s.held = .loaded → s.pc ≤ max s.prog.length 7
  /-- FAULT is set exactly in FAULTED (R35, R165). -/
  faulted_iff : s.status = .faulted ↔ s.fault ≠ .noFault
  /-- FAULT_AT is `none` exactly without a fault (R36). -/
  faultAt_iff : s.faultAt = none ↔ s.fault = .noFault
  /-- A fault during a run is InvalidOperand at an odd `pc`, which still points at the pair (R79, R87, R165). -/
  run_fault : s.status = .faulted → s.held = .loaded →
    s.fault = .invalidOperand ∧ s.faultAt = some s.pc ∧ s.pc % 2 = 1
  /-- HALTED means no pair at `pc` (R101). -/
  halted_end : s.status = .halted → s.prog.length ≤ s.pc + 1
  /-- STOPPED ends an UNTIL_OUT run, after a digit (R109). -/
  stopped_digit : s.status = .stopped → s.mode = .untilOut ∧ s.tape ≠ []
  /-- READY is held between a LOAD and its first RUN (R33, R41). -/
  ready_start : s.status = .ready → s.pc = 0 ∧ s.tape = []
  /-- The tape keeps to TAPE_CAPACITY (R30). -/
  tape_fits : ∀ cap, s.params.tapeCapacity = some cap → s.tape.length ≤ cap

/-- A result with its next state mapped; a fault or a refusal stays. -/
def onNext (f : State → State) : Result → Result
  | .next t => .next (f t)
  | .fault r => .fault r
  | .refused r => .refused r

/-- The register a combo operand selects, if any (R75). -/
def comboReads (x : Octal) (r : Reg) : Bool := comboSource x == some (.register r)

/-- The reads of R21's table: explicit, or by the combo operand. -/
def reads (i : Instr) (r : Reg) : Bool :=
  match i with
  | .adv x => r == .a || comboReads x r
  | .bxl _ => r == .b
  | .bst x => comboReads x r
  | .jnz _ => r == .a
  | .bxc _ => r == .b || r == .c
  | .out x => comboReads x r
  | .bdv x => r == .a || comboReads x r
  | .cdv x => r == .a || comboReads x r

/-- The register an instruction writes, if any (R21). -/
def writes : Instr → Option Reg
  | .adv _ => some .a
  | .bxl _ => some .b
  | .bst _ => some .b
  | .jnz _ => none
  | .bxc _ => some .b
  | .out _ => none
  | .bdv _ => some .b
  | .cdv _ => some .c

/-- The state with mode FULL: what a run in mode UNTIL_OUT is compared with (R111). -/
def fullView (s : State) : State := { s with mode := .full }

/-- The shape precondition of R112, the caller's contract of UNTIL_OUT; the core does not check it. "The final two
instructions are `jnz`" is read as the final pair (log entry 21). -/
def shapeOk (prog : List Nat) : Bool :=
  let pairs := listedPairs prog
  pairs.filter (fun p => p.1 == 0) == [(0, 3)]
    && (pairs.filter (fun p => p.1 == 5)).length == 1
    && pairs.getLast? == some (3, 0)

end Sys2Proof
end

