-- ==== Sys2Proof/Certificates/Slice0/Obligations.lean ====
section
/-! DEFINITION. The statements for the provers. A record update in a conclusion is a frame: every field it does not
name is as before. A docstring that says "the spec's decision Dn" or "the spec derives" names what is the spec's own choice or
inference; one that names a log entry says what is the model's. -/

open Sys2Proof Sys2Proof.Machine

section Encoding

/-- R70, R72, R79: decoding the two elements of a well-formed instruction gives it back, at every operand value. -/
def Obligations.DecodeOfEncodeIsTheInstruction : Prop :=
  ∀ i : Instr, wellFormed i = true →
    ∃ op x, encode i = [op, x] ∧ encodeWord i = BitVec.ofNat 6 (8 * op + x) ∧ decode op x = .ok i ∧
      decodeTableWord 8 (8 * op + x) = some i

/-- R79, R82: two elements that decode are the encoding of what they decode to, and it is well formed: every instruction
has one encoding. -/
def Obligations.DecodedElementsAreTheEncoding : Prop :=
  ∀ op x i, decode op x = .ok i → encode i = [op, x] ∧ wellFormed i = true ∧ op < 8 ∧ x < 8

/-- R82, R79: which pairs are illegal, with the condition each raises, in the decoder's order; all others decode. -/
def Obligations.IllegalPairsAndTheirFaults : Prop :=
  ∀ op x : Nat,
    decode op x =
      if 7 < op then .error .invalidOpcode
      else if 7 < x then .error .invalidOperand
      else if (op = 0 ∨ op = 2 ∨ op = 5 ∨ op = 6 ∨ op = 7) ∧ x = 7 then .error .invalidOperand
      else .ok (match op with
        | 0 => .adv (BitVec.ofNat 3 x) | 1 => .bxl (BitVec.ofNat 3 x) | 2 => .bst (BitVec.ofNat 3 x)
        | 3 => .jnz (BitVec.ofNat 3 x) | 4 => .bxc (BitVec.ofNat 3 x) | 5 => .out (BitVec.ofNat 3 x)
        | 6 => .bdv (BitVec.ofNat 3 x) | _ => .cdv (BitVec.ofNat 3 x))

/-- R71, R72: words of the opcode table, one per instruction, written out bit by bit (`000 001` is `adv 1`). -/
def Obligations.TableWordsDecode : Prop :=
  decodeTableWord 8 0b000001 = some (.adv 1) ∧ decodeTableWord 8 0b001111 = some (.bxl 7) ∧
  decodeTableWord 8 0b010100 = some (.bst 4) ∧ decodeTableWord 8 0b011101 = some (.jnz 5) ∧
  decodeTableWord 8 0b100111 = some (.bxc 7) ∧ decodeTableWord 8 0b101100 = some (.out 4) ∧
  decodeTableWord 8 0b110101 = some (.bdv 5) ∧ decodeTableWord 8 0b111110 = some (.cdv 6) ∧
  decodeTableWord 8 0b101111 = none ∧ decodeTableWord 8 0b1000000 = none

/-- R90, R91, R85: a program assembled from well-formed instructions passes the LOAD check and disassembles to the same
instructions; and a list of elements passes the check exactly when it is such an assembly. -/
def Obligations.AssemblyAndLoadCheckAgree : Prop :=
  (∀ is : List Instr, (∀ i ∈ is, wellFormed i = true) →
    loadCheck (assemble is) = none ∧ disassemble (assemble is) = some is) ∧
  (∀ prog : List Nat, loadCheck prog = none ↔ ∃ is : List Instr, (∀ i ∈ is, wellFormed i = true) ∧ assemble is = prog)

/-- R86 (the order is the spec's decision D7): LOAD reports MalformedProgram with `N` for an odd length; otherwise the
first listed pair the decoder refuses, with its index and its condition. -/
def Obligations.LoadCheckReportsTheFirstFault : Prop :=
  ∀ prog : List Nat,
    (prog.length % 2 = 1 → loadCheck prog = some (.malformedProgram, prog.length)) ∧
    (∀ f k, loadCheck prog = some (.illegalPair f, k) ↔
      prog.length % 2 = 0 ∧ k % 2 = 0 ∧
      (∃ op x, prog[k]? = some op ∧ prog[k + 1]? = some x ∧ decode op x = .error f) ∧
      (∀ j op x, j < k → j % 2 = 0 → prog[j]? = some op → prog[j + 1]? = some x → ∃ i, decode op x = .ok i)) ∧
    (loadCheck prog = none ↔
      prog.length % 2 = 0 ∧
      ∀ j op x, j % 2 = 0 → prog[j]? = some op → prog[j + 1]? = some x → ∃ i, decode op x = .ok i)

/-- R85: "A successful LOAD therefore guarantees every element is 0–7 and no pair at an even index is an illegal combo." -/
def Obligations.CheckedProgramHasOctalElements : Prop :=
  ∀ prog : List Nat, loadCheck prog = none →
    (∀ e ∈ prog, e ≤ 7) ∧
    ∀ k op, k % 2 = 0 → prog[k]? = some op → (op = 0 ∨ op = 2 ∨ op = 5 ∨ op = 6 ∨ op = 7) → prog[k + 1]? ≠ some 7

end Encoding

section Operands

/-- R75: the value of each combo operand in the snapshot; 7 raises InvalidOperand at `pc` in every instruction of
combo kind. -/
def Obligations.ComboOperandResolution : Prop :=
  ∀ s : State,
    combo 0 s = some 0 ∧ combo 1 s = some 1 ∧ combo 2 s = some 2 ∧ combo 3 s = some 3 ∧
    combo 4 s = some s.a ∧ combo 5 s = some s.b ∧ combo 6 s = some s.c ∧ combo 7 s = none ∧
    ∀ i : Instr, operandKind i = .combo → operandOf i = 7 →
      exec i s = .next { s with status := .faulted, fault := .invalidOperand, faultAt := some s.pc }

/-- R76: every literal operand 0–7 is legal and stands for its own number. -/
def Obligations.LiteralOperandIsTheNumber : Prop :=
  ∀ x : Octal, decode 1 x.toNat = .ok (.bxl x) ∧ decode 3 x.toNat = .ok (.jnz x) ∧
    (literalWord x).toNat = x.toNat ∧ literalTarget x = x.toNat

/-- R77: the operand of `bxc` is legal at every value 0–7 and changes nothing. -/
def Obligations.BxcIgnoresItsOperand : Prop :=
  ∀ (x y : Octal) (s : State), decode 4 x.toNat = .ok (.bxc x) ∧ exec (.bxc x) s = exec (.bxc y) s ∧
    ∃ t, exec (.bxc x) s = .next t ∧ t.status = s.status ∧ t.fault = s.fault

end Operands

section Instructions

/-- R120: encoding, result and frame of `adv` for every legal operand, and InvalidOperand for 7. -/
def Obligations.AdvShiftsA : Prop :=
  ∀ (x : Octal) (s : State),
    encode (.adv x) = [0, x.toNat] ∧ encodeWord (.adv x) = 0#3 ++ x ∧
    (x ≠ 7 → ∃ k, combo x s = some k ∧
      exec (.adv x) s = .next { s with a := BitVec.ofNat 64 (s.a.toNat / 2 ^ k.toNat), pc := s.pc + 2 }) ∧
    (x = 7 → decode 0 x.toNat = .error .invalidOperand ∧
      exec (.adv x) s = .next { s with status := .faulted, fault := .invalidOperand, faultAt := some s.pc })

/-- R121: encoding, result and frame of `bdv` for every legal operand, and InvalidOperand for 7. -/
def Obligations.BdvShiftsAIntoB : Prop :=
  ∀ (x : Octal) (s : State),
    encode (.bdv x) = [6, x.toNat] ∧ encodeWord (.bdv x) = 6#3 ++ x ∧
    (x ≠ 7 → ∃ k, combo x s = some k ∧
      exec (.bdv x) s = .next { s with b := BitVec.ofNat 64 (s.a.toNat / 2 ^ k.toNat), pc := s.pc + 2 }) ∧
    (x = 7 → decode 6 x.toNat = .error .invalidOperand ∧
      exec (.bdv x) s = .next { s with status := .faulted, fault := .invalidOperand, faultAt := some s.pc })

/-- R122: encoding, result and frame of `cdv` for every legal operand, and InvalidOperand for 7. -/
def Obligations.CdvShiftsAIntoC : Prop :=
  ∀ (x : Octal) (s : State),
    encode (.cdv x) = [7, x.toNat] ∧ encodeWord (.cdv x) = 7#3 ++ x ∧
    (x ≠ 7 → ∃ k, combo x s = some k ∧
      exec (.cdv x) s = .next { s with c := BitVec.ofNat 64 (s.a.toNat / 2 ^ k.toNat), pc := s.pc + 2 }) ∧
    (x = 7 → decode 7 x.toNat = .error .invalidOperand ∧
      exec (.cdv x) s = .next { s with status := .faulted, fault := .invalidOperand, faultAt := some s.pc })

/-- R123 (the spec derives it): the result of a shift is 0 exactly when A < 2^k, is at most A, and a shift by 3 drops the
low three bits; `k ≥ 64` gives 0 (the spec's decision D4), and A shifted by itself is 0. -/
def Obligations.ShiftFamilyLaws : Prop :=
  ∀ a k : Word,
    ((shiftRight a k = 0 ↔ a.toNat < 2 ^ k.toNat) ∧ (shiftRight a k).toNat ≤ a.toNat ∧
      (shiftRight a 3).toNat = (a.toNat - a.toNat % 8) / 8 ∧
      (64 ≤ k.toNat → shiftRight a k = 0) ∧ shiftRight a a = 0 ∧ shiftRight a 0 = a)

/-- R130: encoding, result and frame of `bxl`, for every operand; no exception. -/
def Obligations.BxlXorsTheLiteral : Prop :=
  ∀ (x : Octal) (s : State),
    encode (.bxl x) = [1, x.toNat] ∧ encodeWord (.bxl x) = 1#3 ++ x ∧
    exec (.bxl x) s = .next { s with b := BitVec.ofNat 64 (s.b.toNat ^^^ x.toNat), pc := s.pc + 2 }

/-- R131: encoding, result and frame of `bst` for every legal operand, and InvalidOperand for 7. -/
def Obligations.BstTakesTheLowDigit : Prop :=
  ∀ (x : Octal) (s : State),
    encode (.bst x) = [2, x.toNat] ∧ encodeWord (.bst x) = 2#3 ++ x ∧
    (x ≠ 7 → ∃ k, combo x s = some k ∧
      exec (.bst x) s = .next { s with b := BitVec.ofNat 64 (k.toNat % 8), pc := s.pc + 2 }) ∧
    (x = 7 → decode 2 x.toNat = .error .invalidOperand ∧
      exec (.bst x) s = .next { s with status := .faulted, fault := .invalidOperand, faultAt := some s.pc })

/-- R132: encoding, result and frame of `bxc`, for every operand; no exception. -/
def Obligations.BxcXorsC : Prop :=
  ∀ (x : Octal) (s : State),
    encode (.bxc x) = [4, x.toNat] ∧ encodeWord (.bxc x) = 4#3 ++ x ∧
    exec (.bxc x) s = .next { s with b := BitVec.ofNat 64 (s.b.toNat ^^^ s.c.toNat), pc := s.pc + 2 }

/-- R130–R133, the corner cases: `bxl x` twice restores B and never changes the bits from 3 up; `bst` leaves at most 7;
`bxc` of equal registers gives 0, and with C = 0 keeps B. -/
def Obligations.BitwiseFamilyLaws : Prop :=
  ∀ (x : Octal) (s t u : State),
    (exec (.bxl x) s = .next t → exec (.bxl x) t = .next u → u.b = s.b) ∧
    (exec (.bxl x) s = .next t → t.b.toNat / 8 = s.b.toNat / 8) ∧
    (x ≠ 7 → exec (.bst x) s = .next t → t.b.toNat ≤ 7) ∧
    (exec (.bxc x) s = .next t → (s.b = s.c → t.b = 0) ∧ (s.c = 0 → t.b = s.b))

/-- R140: encoding, result and frame of `jnz`, for every target; no exception. -/
def Obligations.JnzJumpsWhenAIsNonzero : Prop :=
  ∀ (x : Octal) (s : State),
    encode (.jnz x) = [3, x.toNat] ∧ encodeWord (.jnz x) = 3#3 ++ x ∧ decode 3 x.toNat = .ok (.jnz x) ∧
    (s.a ≠ 0 → exec (.jnz x) s = .next { s with pc := x.toNat }) ∧
    (s.a = 0 → exec (.jnz x) s = .next { s with pc := s.pc + 2 })

/-- R150, with room on the tape (always so by default, R30): `out` appends the low digit of its operand, advances, and in
mode UNTIL_OUT stops the run (R109); 7 raises InvalidOperand and appends nothing. -/
def Obligations.OutAppendsTheLowDigit : Prop :=
  ∀ (x : Octal) (s : State),
    encode (.out x) = [5, x.toNat] ∧ encodeWord (.out x) = 5#3 ++ x ∧
    (x ≠ 7 → (∀ cap, s.params.tapeCapacity = some cap → s.tape.length < cap) →
      ∃ k, combo x s = some k ∧
        (s.mode = .full → exec (.out x) s =
          .next { s with tape := s.tape ++ [BitVec.ofNat 3 (k.toNat % 8)], pc := s.pc + 2 }) ∧
        (s.mode = .untilOut → exec (.out x) s =
          .next { s with tape := s.tape ++ [BitVec.ofNat 3 (k.toNat % 8)], pc := s.pc + 2, status := .stopped })) ∧
    (x = 7 → decode 5 x.toNat = .error .invalidOperand ∧
      exec (.out x) s = .next { s with status := .faulted, fault := .invalidOperand, faultAt := some s.pc })

/-- 92_eei_decisions.md D19 (the spec's decision, log entry 8): `out` on a full bounded tape is a fault, and nothing else
stops an instruction. -/
def Obligations.OnlyAFullTapeStopsAnInstruction : Prop :=
  ∀ (i : Instr) (s : State),
    (∀ r, exec i s ≠ .refused r) ∧
    (∀ f, exec i s = .fault f ↔
      f = .tapeOverflow ∧ ∃ x cap, i = .out x ∧ x ≠ 7 ∧ s.params.tapeCapacity = some cap ∧ cap ≤ s.tape.length)

/-- Every instruction of R72 completes: for a legal operand (R82), and for `out` with room on the tape (R30), there is a next
state, in every state. In it `pc` is as R25 says, only the register of the instruction's row has changed (R21), only `out` has
appended a digit, and only an `out` in mode UNTIL_OUT has changed STATUS (R109). -/
def Obligations.EveryWellFormedInstructionCompletes : Prop :=
  ∀ (i : Instr) (s : State), wellFormed i = true →
    ((∀ x, i ≠ .out x) ∨ ∀ cap, s.params.tapeCapacity = some cap → s.tape.length < cap) →
    ∃ t, exec i s = .next t ∧
      (∀ x, i = .jnz x → s.a ≠ 0 → t.pc = x.toNat) ∧ ((∀ x, i = .jnz x → s.a = 0) → t.pc = s.pc + 2) ∧
      (∀ r, writes i ≠ some r → readReg r t = readReg r s) ∧
      ((∀ x, i ≠ .out x) → t.tape = s.tape ∧ t.status = s.status) ∧
      (∀ x, i = .out x → (∃ d, t.tape = s.tape ++ [d]) ∧
        (s.mode = .full → t.status = s.status) ∧ (s.mode = .untilOut → t.status = .stopped)) ∧
      t.prog = s.prog ∧ t.mode = s.mode ∧ t.fault = s.fault ∧ t.faultAt = s.faultAt ∧
      t.held = s.held ∧ t.params = s.params

/-- R25: every instruction except `jnz` advances `pc` by 2; `jnz` goes to its literal when A ≠ 0, otherwise it
advances. -/
def Obligations.PcAdvancesByTwoExceptJnz : Prop :=
  ∀ (i : Instr) (s t : State), wellFormed i = true → exec i s = .next t →
    (∀ x, i = .jnz x → s.a ≠ 0 → t.pc = x.toNat) ∧
    (∀ x, i = .jnz x → s.a = 0 → t.pc = s.pc + 2) ∧
    ((∀ x, i ≠ .jnz x) → t.pc = s.pc + 2)

/-- R21, R29: the writes of the table: no instruction changes a register other than the one its row writes, only `out`
changes the tape, and none changes PROG, MODE, the parameters, which state holds a value, or (if well formed) FAULT and
FAULT_AT. -/
def Obligations.InstructionWritesOnlyItsRow : Prop :=
  ∀ (i : Instr) (s t : State), exec i s = .next t →
    (∀ r, writes i ≠ some r → readReg r t = readReg r s) ∧
    ((∀ x, i ≠ .out x) → t.tape = s.tape) ∧
    t.prog = s.prog ∧ t.mode = s.mode ∧ t.params = s.params ∧ t.held = s.held ∧
    (wellFormed i = true → t.fault = s.fault ∧ t.faultAt = s.faultAt) ∧
    (wellFormed i = true → (∀ x, i ≠ .out x) → t.status = s.status)

/-- R21, the reads of the table: a register that an instruction does not read has no influence on what it does; its value
survives unless the instruction writes it. -/
def Obligations.UnreadRegisterHasNoInfluence : Prop :=
  ∀ (i : Instr) (r : Reg) (v : Word) (s : State), wellFormed i = true → reads i r = false →
    exec i (writeReg r v s) = onNext (fun t => if writes i = some r then t else writeReg r v t) (exec i s)

end Instructions

section Cycle

/-- R102, R103, R107: when the pair at `pc` decodes to an instruction, the step of a running engine is that instruction's
execution and nothing else. -/
def Obligations.StepRunsTheDecodedInstruction : Prop :=
  ∀ (s : State) (op x : Nat) (i : Instr),
    s.status = .running → s.prog[s.pc]? = some op → s.prog[s.pc + 1]? = some x → decode op x = .ok i →
    step s = exec i s

/-- R101: a running engine with `pc + 1 ≥ N` halts, and nothing else changes. -/
def Obligations.HaltWhenNoPairIsAvailable : Prop :=
  ∀ s : State, s.status = .running → s.pc + 1 ≥ s.prog.length → step s = .next { s with status := .halted }

/-- R103, R165: when the decoder raises a fault, STATUS, FAULT and FAULT_AT record it and nothing else changes. -/
def Obligations.DecoderFaultEntersFaulted : Prop :=
  ∀ (s : State) (op x : Nat) (f : DecodeFault),
    s.status = .running → s.prog[s.pc]? = some op → s.prog[s.pc + 1]? = some x → decode op x = .error f →
    step s = .next { s with status := .faulted, faultAt := some s.pc,
                            fault := match f with
                              | .invalidOpcode => .invalidOpcode
                              | .invalidOperand => .invalidOperand }

/-- R71, R102 (log entry 6): the opcode-table word that `withFetchWord` places, at any `pc` and in any state, is what the
next step runs, on exactly the registers, `pc`, tape and MODE that were there. -/
def Obligations.PlacedWordIsTheNextInstruction : Prop :=
  ∀ (s : State) (w : Nat) (i : Instr), decodeTableWord 8 w = some i → w < 256 →
    step (s.withFetchWord 8 w) = exec i (s.withFetchWord 8 w) ∧
    ∃ prog, s.withFetchWord 8 w = { s with prog := prog, status := .running, held := .loaded } ∧
      prog[s.pc]? = some (w / 8) ∧ prog[s.pc + 1]? = some (w % 8) ∧
      ∀ n e, n ≠ s.pc → n ≠ s.pc + 1 → s.prog[n]? = some e → prog[n]? = some e

/-- R178 (log entry 5): outside RUNNING a step changes nothing. -/
def Obligations.IdleEngineHoldsItsState : Prop :=
  ∀ s : State, s.status ≠ .running → step s = .next s

/-- R52: no step reads an element outside the program; a step is never refused, and it faults only for a full bounded tape
(log entry 8), so with the default capacity every state has a next one. Outside RUNNING, where R107 defines no step and R178
says that the core holds its state, that there is a next state is the model's reading (log entry 5). -/
def Obligations.EveryStepHasANextState : Prop :=
  ∀ s : State,
    (∀ r, step s ≠ .refused r) ∧
    (s.params.tapeCapacity = none → ∃ t, step s = .next t) ∧
    (∀ f, step s = .fault f → f = .tapeOverflow ∧ ∃ cap, s.params.tapeCapacity = some cap ∧ cap ≤ s.tape.length)

/-- R113, R108, R109: a step of a running engine leaves it running, stopped, halted or faulted; it stops only in mode
UNTIL_OUT and exactly when a digit was appended there; it halts exactly when no pair is available; it faults exactly when a
pair is available and the decoder raises a fault on it (R103); otherwise it is still running. -/
def Obligations.HowARunEnds : Prop :=
  ∀ s t : State, s.status = .running → step s = .next t →
    (t.status = .running ∨ t.status = .stopped ∨ t.status = .halted ∨ t.status = .faulted) ∧
    (t.status = .stopped ↔ s.mode = .untilOut ∧ t.tape ≠ s.tape) ∧
    (t.status = .halted ↔ s.prog.length ≤ s.pc + 1) ∧
    (t.status = .faulted ↔
      ∃ op x f, s.prog[s.pc]? = some op ∧ s.prog[s.pc + 1]? = some x ∧ decode op x = .error f)

/-- R165, R166: an execution fault is precise: it records the pair's index and changes nothing else. -/
def Obligations.ExecutionFaultIsPrecise : Prop :=
  ∀ s t : State, s.status = .running → step s = .next t → t.status = .faulted →
    t = { s with status := .faulted, fault := t.fault, faultAt := some s.pc } ∧
    (t.fault = .invalidOpcode ∨ t.fault = .invalidOperand)

/-- R79, R87 (the spec derives it): with a program that passed the LOAD check, an aligned pair never faults; a fault
happens only at an odd `pc`, is InvalidOperand, and comes from operand 7 of a combo opcode. -/
def Obligations.CheckedProgramFaultsOnlyAtOddPc : Prop :=
  ∀ s t : State, loadCheck s.prog = none → s.status = .running → step s = .next t → t.status = .faulted →
    s.pc % 2 = 1 ∧ t.fault = .invalidOperand ∧ s.prog[s.pc + 1]? = some 7 ∧
    ∃ op, s.prog[s.pc]? = some op ∧ (op = 0 ∨ op = 2 ∨ op = 5 ∨ op = 6 ∨ op = 7)

/-- R27 (the spec derives it): `pc ≤ max(N, 7)` is kept by every step. -/
def Obligations.PcStaysWithinItsBound : Prop :=
  ∀ s t : State, s.pc ≤ max s.prog.length 7 → step s = .next t → t.pc ≤ max t.prog.length 7

/-- R28 (the spec's decision D6): from an even `pc` only a taken `jnz` with an odd literal makes `pc` odd. -/
def Obligations.OnlyAnOddJumpMakesPcOdd : Prop :=
  ∀ s t : State, s.status = .running → s.pc % 2 = 0 → step s = .next t → t.pc % 2 = 1 →
    s.a ≠ 0 ∧ ∃ x, s.prog[s.pc]? = some 3 ∧ s.prog[s.pc + 1]? = some x ∧ x % 2 = 1 ∧ t.pc = x

end Cycle

section Runs

/-- R32, R62: PROG is the same after any number of steps; so are MODE, the parameters and which state holds a value. -/
def Obligations.ProgramIsImmutableDuringARun : Prop :=
  ∀ (k : Nat) (s t : State), steps k s = .next t →
    t.prog = s.prog ∧ t.mode = s.mode ∧ t.params = s.params ∧ t.held = s.held

/-- R30, R31, R43: after any number of steps the tape is the earlier tape followed by the digits of the OUT events, in
their order: nothing is removed or overwritten. -/
def Obligations.TapeIsTheOutEventsInOrder : Prop :=
  ∀ (k : Nat) (s t : State), steps k s = .next t → t.tape = s.tape ++ outEvents k s

/-- R110 (the spec derives it): a `jnz` to its own `pc` with A ≠ 0 never ends: the engine stays RUNNING in the same state
for ever. -/
def Obligations.SelfLoopNeverEnds : Prop :=
  ∀ (s : State), s.status = .running → s.a ≠ 0 → s.pc ≤ 7 →
    s.prog[s.pc]? = some 3 → s.prog[s.pc + 1]? = some s.pc → ∀ k, steps k s = .next s

/-- R111 (the spec derives it; resuming is the spec's decision D12): a sequence of UNTIL_OUT runs takes exactly the steps of
one FULL run: after any number of steps the two agree on everything but MODE, so their tapes are equal. -/
def Obligations.UntilOutRunsTakeTheStepsOfOneFullRun : Prop :=
  ∀ (k : Nat) (s : State), s.status = .running →
    steps k (fullView s) = onNext fullView (untilOutRuns k s)

/-- The invariant of `Sys2Proof.CoreInv` is kept by every step. -/
def Obligations.StepKeepsTheInvariant : Prop :=
  ∀ s t : State, CoreInv s → step s = .next t → CoreInv t

/-- The invariant of `Sys2Proof.CoreInv` is kept by every session of host commands and steps, whatever the host does. -/
def Obligations.SessionKeepsTheInvariant : Prop :=
  ∀ (cmds : List (Option Command)) (s t : State), CoreInv s → session cmds s = .next t → CoreInv t

/-- The invariant of `Sys2Proof.CoreInv` holds right after power-on reset, whatever the OPEN parameters are. -/
def Obligations.ResetMeetsTheInvariant : Prop :=
  CoreInv State.reset ∧ ∀ p : Config.Params, CoreInv (State.powerOn p)

end Runs

section HostInterface

/-- R46, R190 (the spec's decision D15; the values that stand in A, B, C and PROG are the model's, log entries 1 and 2, and
are not stated): what power-on reset leaves. -/
def Obligations.ResetValues : Prop :=
  State.reset.status = .idle ∧ State.reset.mode = .full ∧ State.reset.fault = .noFault ∧
  State.reset.faultAt = none ∧ State.reset.pc = 0 ∧ State.reset.tape = [] ∧
  hostRead .a State.reset = .error .readHoldsNoValue ∧ hostRead .b State.reset = .error .readHoldsNoValue ∧
  hostRead .c State.reset = .error .readHoldsNoValue

/-- R41: a LOAD outside RUNNING (of a program MAX_PROG_LEN admits, log entry 9) installs the program and the registers when
the check passes, and enters FAULTED with the check's fault when it fails; then no read of A, B, C, `pc` or TAPE has a
value. -/
def Obligations.LoadInstallsOrFaults : Prop :=
  ∀ (prog : List Nat) (a b c : Word) (s : State),
    s.status ≠ .running → (∀ m, s.params.maxProgLen = some m → prog.length ≤ m) →
    (loadCheck prog = none →
      hostLoad prog a b c s = .next
        { a := a, b := b, c := c, pc := 0, tape := [], prog := prog
          status := .ready, mode := s.mode, fault := .noFault, faultAt := none
          held := .loaded, params := s.params }) ∧
    (∀ f info, loadCheck prog = some (f, info) →
      ∃ t, hostLoad prog a b c s = .next t ∧ t.status = .faulted ∧ t.faultAt = some info ∧ t.mode = s.mode ∧
        t.params = s.params ∧
        t.fault = (match f with
          | .malformedProgram => .malformedProgram
          | .illegalPair .invalidOpcode => .invalidOpcode
          | .illegalPair .invalidOperand => .invalidOperand) ∧
        (∀ item, item = .a ∨ item = .b ∨ item = .c ∨ item = .pc ∨ item = .tape →
          hostRead item t = .error .readHoldsNoValue))

/-- R42 (resuming from STOPPED is the spec's decision D12): RUN from READY or STOPPED sets MODE and STATUS and nothing
else. -/
def Obligations.RunStartsOrResumes : Prop :=
  ∀ (m : Mode) (s : State), (s.status = .ready ∨ s.status = .stopped) →
    hostCommand (.run m) s = .next { s with mode := m, status := .running } ∧ accepts (.run m) s = true

/-- R45 (the spec's decision D25): which commands the core refuses, and a refused command changes no state. -/
def Obligations.RefusedCommandsChangeNothing : Prop :=
  ∀ s : State,
    (∀ cmd, accepts cmd s = false → hostCommand cmd s = .next s) ∧
    (∀ m, accepts (.run m) s = false ↔
      s.status = .idle ∨ s.status = .running ∨ s.status = .halted ∨ s.status = .faulted) ∧
    (∀ prog a b c, accepts (.load prog a b c) s = false ↔ s.status = .running)

/-- R167: a fault is sticky: whatever the host does next, the core stays FAULTED in the same run state until a LOAD whose
program passes the check. -/
def Obligations.FaultIsStickyUntilALoad : Prop :=
  ∀ s : State, s.status = .faulted →
    (∀ m, accepts (.run m) s = false) ∧
    ∀ (cmd : Option Command) (t : State), transition cmd s = .next t →
      t = s ∨ ∃ prog a b c, cmd = some (.load prog a b c) ∧
        ((loadCheck prog = none ∧ t.status = .ready ∧ t.fault = .noFault ∧ t.faultAt = none) ∨
         (loadCheck prog ≠ none ∧ t.status = .faulted))

/-- R192, R47: a successful LOAD followed by RUN leaves the same state whatever was there before (for one machine, that is
for the same parameters): nothing of an earlier run survives. -/
def Obligations.LoadErasesTheEarlierRun : Prop :=
  ∀ (prog : List Nat) (a b c : Word) (m : Mode) (s1 s2 : State),
    s1.params = s2.params → s1.status ≠ .running → s2.status ≠ .running → loadCheck prog = none →
    (∀ n, s1.params.maxProgLen = some n → prog.length ≤ n) →
    ∃ t, session [some (.load prog a b c), some (.run m)] s1 = .next t ∧
      session [some (.load prog a b c), some (.run m)] s2 = .next t ∧ t.status = .running ∧ t.mode = m

/-- R43, R40 (the spec's decision D11; that STATUS too is refused is log entry 17): while RUNNING every read is refused.
Otherwise the status registers always read as their codes; A, B, C, `pc` and TAPE read as their values after a successful LOAD;
before any LOAD `pc` reads as its value and A, B, C (R46) and TAPE (93 U10, log entry 4) are refused; after a failed LOAD all
five are refused (R41). -/
def Obligations.ReadbackOutsideARun : Prop :=
  ∀ s : State,
    (s.status = .running → ∀ item, hostRead item s = .error .readWhileRunning) ∧
    (s.status ≠ .running → s.held = .loaded →
      hostRead .a s = .ok (.word s.a) ∧ hostRead .b s = .ok (.word s.b) ∧ hostRead .c s = .ok (.word s.c) ∧
      hostRead .pc s = .ok (.index s.pc) ∧ hostRead .tape s = .ok (.digits s.tape)) ∧
    (s.status ≠ .running → s.held = .powerOn →
      hostRead .a s = .error .readHoldsNoValue ∧ hostRead .b s = .error .readHoldsNoValue ∧
      hostRead .c s = .error .readHoldsNoValue ∧ hostRead .tape s = .error .readHoldsNoValue ∧
      hostRead .pc s = .ok (.index s.pc)) ∧
    (s.status ≠ .running → s.held = .loadFailed →
      hostRead .a s = .error .readHoldsNoValue ∧ hostRead .b s = .error .readHoldsNoValue ∧
      hostRead .c s = .error .readHoldsNoValue ∧ hostRead .tape s = .error .readHoldsNoValue ∧
      hostRead .pc s = .error .readHoldsNoValue) ∧
    (s.status ≠ .running →
      hostRead .status s = .ok (.status (statusCode s.status)) ∧ hostRead .mode s = .ok (.mode (modeCode s.mode)) ∧
      hostRead .fault s = .ok (.fault (faultCodeBits s.fault)) ∧ hostRead .faultAt s = .ok (.faultAt s.faultAt))

/-- R33, R34, R35 (the codes are the spec's decision D10): the numeric codes; 6 and 7 are no STATUS. -/
def Obligations.StatusRegisterCodes : Prop :=
  statusCode .idle = 0 ∧ statusCode .ready = 1 ∧ statusCode .running = 2 ∧ statusCode .stopped = 3 ∧
  statusCode .halted = 4 ∧ statusCode .faulted = 5 ∧ statusOfCode 6 = none ∧ statusOfCode 7 = none ∧
  (∀ st : Status, statusOfCode (statusCode st) = some st) ∧
  modeCode .full = 0 ∧ modeCode .untilOut = 1 ∧
  faultCodeBits .noFault = 0 ∧ faultCodeBits .invalidOpcode = 1 ∧ faultCodeBits .invalidOperand = 2 ∧
  faultCodeBits .malformedProgram = 3

/-- R44 ("no digit" and the faulted run are the spec's decisions D14 and D9): the result of each end of a run. R44 asks for
"no digit" that no `out` executed since the RUN; in mode UNTIL_OUT one would have stopped the run (R109), so the model reads
it off HALTED alone, and FAULTED takes in a LOAD that failed (both log entry 24). -/
def Obligations.ResultOfEachEndOfARun : Prop :=
  ∀ s : State,
    (s.status = .halted → s.mode = .full → runResult s = some (.complete s.tape s.a s.b s.c)) ∧
    (s.status = .halted → s.mode = .untilOut → runResult s = some .noDigit) ∧
    (s.status = .faulted → runResult s = some (.fault s.fault s.faultAt)) ∧
    (CoreInv s → s.status = .stopped → ∃ before d, s.tape = before ++ [d] ∧ runResult s = some (.digit d))

/-- R109, R44 (D13): when a step of an UNTIL_OUT run stops it, the result is the digit that very step sent as its OUT
event. -/
def Obligations.UntilOutReturnsTheDigitJustEmitted : Prop :=
  ∀ s t : State, s.status = .running → s.mode = .untilOut → step s = .next t → t.status = .stopped →
    ∃ d, outEvent s = some d ∧ t.tape = s.tape ++ [d] ∧ t.pc = s.pc + 2 ∧ runResult t = some (.digit d)

end HostInterface
end

