-- ==== Sys2Proof/Tests/Slice0.lean ====
section
/-! SUPPORT. Tests on fixed values. Expected results are those of spec/95_test_vectors.md (named in each comment) or
written out by hand from the encoding rules; the last section holds a witness for every statement that has hypotheses. -/

namespace Sys2Proof.Tests

open Sys2Proof.Machine

/-- A core that runs `prog` from the start in mode FULL, as LOAD and RUN leave it after reset. -/
def ran (prog : List Nat) (a b c : Word) : State := startRun .full (install prog a b c State.reset)

/-- The same in mode UNTIL_OUT. -/
def ranUntilOut (prog : List Nat) (a b c : Word) : State := startRun .untilOut (install prog a b c State.reset)

/-- A core with a tape of one digit that may hold `cap`. -/
def bounded (cap : Nat) : State :=
  { ran [5, 4] 9 0 0 with tape := [3], params := { maxProgLen := none, tapeCapacity := some cap } }

/-- The result is a next state with the property. -/
def nextIs (r : Result) (p : State → Bool) : Bool :=
  match r with
  | .next t => p t
  | _ => false

/-- `M` of 95_test_vectors.md: `2^64 − 1`. -/
def allOnes : Word := 18446744073709551615

section WellFormedness

/-- R82: a combo operand of 7 is ill-formed in each of the five combo instructions. -/
theorem test_wellFormed_refuses_combo_seven :
    wellFormed (.adv 7) = false ∧ wellFormed (.bst 7) = false ∧ wellFormed (.out 7) = false ∧
    wellFormed (.bdv 7) = false ∧ wellFormed (.cdv 7) = false := by decide

/-- R82: "Every other pair is legal, including `bxl 7`, `jnz 7` and `bxc 7`". -/
theorem test_wellFormed_admits_seven_elsewhere :
    wellFormed (.bxl 7) = true ∧ wellFormed (.jnz 7) = true ∧ wellFormed (.bxc 7) = true ∧
    wellFormed (.adv 6) = true := by decide

end WellFormedness

section Decoding

/-- Words of P3 and P5 (95_test_vectors.md), bit by bit: `op` in bits 5–3, `x` in bits 2–0 (R71). -/
theorem test_decode_words :
    decodeTableWord 8 0b000011 = some (.adv 3) ∧ decodeTableWord 8 0b001001 = some (.bxl 1) ∧
    decodeTableWord 8 0b010110 = some (.bst 6) ∧ decodeTableWord 8 0b011000 = some (.jnz 0) ∧
    decodeTableWord 8 0b100000 = some (.bxc 0) ∧ decodeTableWord 8 0b101101 = some (.out 5) ∧
    decodeTableWord 8 0b110000 = some (.bdv 0) ∧ decodeTableWord 8 0b111101 = some (.cdv 5) := by decide

/-- The encoder writes the octal words of P1, P3 and P5: `0o01`, `0o11`, `0o24`, `0o30`, `0o47`, `0o54`, `0o65`, `0o75`. -/
theorem test_encode_words :
    encodeWord (.adv 1) = 0o01 ∧ encodeWord (.bxl 1) = 0o11 ∧ encodeWord (.bst 4) = 0o24 ∧
    encodeWord (.jnz 0) = 0o30 ∧ encodeWord (.bxc 7) = 0o47 ∧ encodeWord (.out 4) = 0o54 ∧
    encodeWord (.bdv 5) = 0o65 ∧ encodeWord (.cdv 5) = 0o75 := by decide

/-- R79, R82: each illegal case by name. -/
theorem test_decode_refuses_by_name :
    decode 8 9 = .error .invalidOpcode ∧ decode 1 8 = .error .invalidOperand ∧
    decode 0 7 = .error .invalidOperand ∧ decode 5 7 = .error .invalidOperand := by decide

/-- V-L1 to V-L4. -/
theorem test_loadCheck_length_first :
    loadCheck [] = none ∧ loadCheck [0, 3, 5] = some (.malformedProgram, 3) ∧
    loadCheck [8] = some (.malformedProgram, 1) ∧ loadCheck [8, 0] = some (.illegalPair .invalidOpcode, 0) := by decide

/-- V-L5, V-L7, V-L8, V-L9. -/
theorem test_loadCheck_pair_order :
    loadCheck [9, 9] = some (.illegalPair .invalidOpcode, 0) ∧
    loadCheck [5, 9] = some (.illegalPair .invalidOperand, 0) ∧
    loadCheck [0, 7] = some (.illegalPair .invalidOperand, 0) ∧ loadCheck [1, 7, 3, 7, 4, 7] = none := by decide

/-- V-L10, V-L11, V-L12. -/
theorem test_loadCheck_first_failure_wins :
    loadCheck [2, 4, 0, 7, 9, 9] = some (.illegalPair .invalidOperand, 2) ∧
    loadCheck [3, 0, 10, 1] = some (.illegalPair .invalidOpcode, 2) ∧ loadCheck [3, 3, 1, 5, 7, 0] = none := by decide

end Decoding

section OneStep

/-- V-S2, V-S5 -/
theorem test_adv_shifts :
    nextIs (step (ran [0, 1] 729 0 0)) (fun t => t.a == 364 && t.pc == 2) = true ∧
    nextIs (step (ran [0, 5] allOnes 64 0)) (fun t => t.a == 0) = true := by decide

/-- V-S4, V-S8 -/
theorem test_adv_largest_amount_and_itself :
    nextIs (step (ran [0, 5] allOnes 63 0)) (fun t => t.a == 1) = true ∧
    nextIs (step (ran [0, 4] 1 0 0)) (fun t => t.a == 0) = true := by decide

/-- V-S10, V-S11 -/
theorem test_bdv_writes_only_b :
    nextIs (step (ran [6, 0] 12345 7 0)) (fun t => t.b == 12345 && t.a == 12345) = true ∧
    nextIs (step (ran [6, 5] 100 3 0)) (fun t => t.b == 12 && t.a == 100) = true := by decide

/-- V-S13, V-S15 -/
theorem test_cdv_writes_only_c :
    nextIs (step (ran [7, 6] 1000 0 3)) (fun t => t.c == 125 && t.a == 1000) = true ∧
    nextIs (step (ran [7, 3] 7 1 1)) (fun t => t.c == 0 && t.a == 7 && t.b == 1) = true := by decide

/-- V-B4, V-B5 -/
theorem test_bxl_keeps_high_bits :
    nextIs (step (ran [1, 1] 0 9223372036854775808 0)) (fun t => t.b == 9223372036854775809) = true ∧
    nextIs (step (ran [1, 7] 0 allOnes 0)) (fun t => t.b == 18446744073709551608) = true := by decide

/-- V-B9, V-B11 -/
theorem test_bst_low_digit :
    nextIs (step (ran [2, 5] 0 allOnes 0)) (fun t => t.b == 7) = true ∧
    nextIs (step (ran [2, 6] 5 9 42)) (fun t => t.b == 2 && t.a == 5 && t.c == 42) = true := by decide

/-- V-B14, V-B17 -/
theorem test_bxc_ignores_operand :
    nextIs (step (ran [4, 7] 0 6 0)) (fun t => t.b == 6 && t.status == .running) = true ∧
    nextIs (step (ran [4, 3] 1 2 4)) (fun t => t.b == 6 && t.a == 1 && t.c == 4) = true := by decide

/-- V-J4 and V-J5: a target beyond the end is no fault. -/
theorem test_jnz_targets :
    nextIs (step (ran [3, 7] 1 0 0)) (fun t => t.pc == 7 && t.status == .running) = true ∧
    nextIs (step (ran [3, 7] 0 0 0)) (fun t => t.pc == 2) = true := by decide

/-- V-O5, V-O6 -/
theorem test_out_low_digit :
    nextIs (step (ran [5, 5] 0 allOnes 0)) (fun t => t.tape == [7] && t.pc == 2 && t.status == .running) = true ∧
    nextIs (step (ran [5, 6] 5 9 42)) (fun t => t.tape == [2] && t.c == 42) = true := by decide

/-- The second instruction of V-M1: in mode UNTIL_OUT the `out` commits, then the run stops. -/
theorem test_out_stops_untilOut :
    nextIs (step { ranUntilOut [0, 3, 5, 4, 3, 0] 14680 0 0 with pc := 2 })
      (fun t => t.status == .stopped && t.pc == 4 && t.tape == [0] && runResult t == some (.digit 0)) = true := by decide

/-- V-H1 to V-H4: the pair at 4 of six elements executes; 5, 6 and 7 halt. -/
theorem test_halt_check :
    nextIs (step { ran [1, 0, 1, 0, 1, 0] 0 0 0 with pc := 4 }) (fun t => t.pc == 6 && t.status == .running) = true ∧
    nextIs (step { ran [1, 0, 1, 0, 1, 0] 0 0 0 with pc := 5 }) (fun t => t.pc == 5 && t.status == .halted) = true ∧
    nextIs (step { ran [1, 0, 1, 0, 1, 0] 0 0 0 with pc := 6 }) (fun t => t.status == .halted) = true ∧
    nextIs (step { ran [1, 0, 1, 0, 1, 0] 0 0 0 with pc := 7 }) (fun t => t.status == .halted) = true := by decide

/-- V-F2: the pair at the odd `pc` 5 is `out 7`; nothing is committed. -/
theorem test_straddling_pair_faults :
    nextIs (step { ran [5, 1, 3, 5, 0, 5, 7, 0] 1 0 0 with pc := 5, tape := [1] })
      (fun t => t == { ran [5, 1, 3, 5, 0, 5, 7, 0] 1 0 0 with
        pc := 5, tape := [1], status := .faulted, fault := .invalidOperand, faultAt := some 5 }) = true := by decide

/-- The host's hook runs the placed word as the first instruction after reset: `jnz 5` with A = 0 advances. -/
theorem test_withFetchWord_runs_first :
    nextIs (step (State.reset.withFetchWord 8 0b011101)) (fun t => t.pc == 2 && t.status == .running) = true ∧
    nextIs (step (State.reset.withFetchWord 8 0b101011)) (fun t => t.tape == [3]) = true := by decide

end OneStep

section HostPort

/-- V-L3, V-L4: a failed LOAD is FAULTED, and reads of A and TAPE are refused. -/
theorem test_failed_load :
    nextIs (hostLoad [8] 0 0 0 State.reset)
      (fun t => t.status == .faulted && t.fault == .malformedProgram && t.faultAt == some 1) = true ∧
    nextIs (hostLoad [8, 0] 0 0 0 State.reset) (fun t => t.fault == .invalidOpcode && t.faultAt == some 0 &&
      (match hostRead .a t, hostRead .tape t with
       | .error .readHoldsNoValue, .error .readHoldsNoValue => true
       | _, _ => false)) = true := by decide

/-- V-L13, V-M6: a successful LOAD clears a fault; RUN before any LOAD is refused. -/
theorem test_load_clears_fault_and_run_needs_load :
    nextIs (session [some (.load [8, 0] 0 0 0), some (.load [5, 1] 0 0 0)] State.reset)
      (fun t => t.status == .ready && t.fault == .noFault && t.faultAt == none) = true ∧
    hostRun .full State.reset = State.reset ∧ accepts (.run .full) State.reset = false := by decide

/-- V-L14: LOAD while RUNNING is refused with no state change. -/
theorem test_load_while_running :
    nextIs (hostLoad [5, 1] 7 7 7 (ran [3, 0] 1 0 0)) (fun t => t == ran [3, 0] 1 0 0) = true ∧
    accepts (.load [5, 1] 7 7 7) (ran [3, 0] 1 0 0) = false := by decide

/-- V-M5: a run in mode UNTIL_OUT that halts with no `out` gives "no digit". -/
theorem test_noDigit :
    nextIs (session [some (.load [1, 1] 0 0 0), some (.run .untilOut), none, none] State.reset)
      (fun t => t.status == .halted && t.b == 1 && t.pc == 2 && runResult t == some .noDigit) = true := by decide

/-- W5, R151: rendering; R90: assembly; R91: the listed pairs. -/
theorem test_text :
    renderTape [4, 6, 3] = "4,6,3" ∧ renderTape [7] = "7" ∧ renderTape [] = "" ∧ assemblyLine (.bxc 7) = "bxc 7" ∧
    assemble [.adv 1, .out 4, .jnz 0] = [0, 1, 5, 4, 3, 0] ∧
    disassemble [0, 3, 5, 4, 3, 0] = some [.adv 3, .out 4, .jnz 0] := by decide

/-- P3 "has the shape of 40_engine_cycle.md rule R112"; P5 has two `out`s (W3). -/
theorem test_shape :
    shapeOk [2, 4, 1, 1, 7, 5, 4, 0, 0, 3, 5, 5, 3, 0] = true ∧
    shapeOk [6, 5, 0, 6, 1, 7, 4, 7, 5, 5, 5, 6] = false := by decide

end HostPort

section Witnesses

theorem witness_DecodeOfEncodeIsTheInstruction : wellFormed (.adv 6) = true ∧ wellFormed (.jnz 7) = true := by decide

theorem witness_DecodedElementsAreTheEncoding : decode 7 6 = .ok (.cdv 6) := by decide

theorem witness_AssemblyAndLoadCheckAgree : ∀ i ∈ ([.adv 6, .bxc 7] : List Instr), wellFormed i = true := by decide

theorem witness_LoadCheckReportsTheFirstFault :
    [8].length % 2 = 1 ∧ loadCheck [0, 6, 0, 7] = some (.illegalPair .invalidOperand, 2) := by decide

theorem witness_CheckedProgramHasOctalElements :
    loadCheck [0, 6, 4, 7] = none ∧ 0 % 2 = 0 ∧ ([0, 6, 4, 7] : List Nat)[0]? = some 0 := by decide

theorem witness_ComboOperandResolution : operandKind (.out 7) = .combo ∧ operandOf (.out 7) = 7 := by decide

/-- Each shift and `bst`, `out`: the last legal operand and the illegal one. -/
theorem witness_combo_operands : (6 : Octal) ≠ 7 ∧ (7 : Octal) = 7 := by decide

theorem witness_ShiftFamilyLaws : 64 ≤ (64 : Word).toNat := by decide

theorem witness_BitwiseFamilyLaws :
    (∃ t u, exec (.bxl 7) (ran [1, 7] 0 5 0) = .next t ∧ exec (.bxl 7) t = .next u) ∧
    (∃ t, (6 : Octal) ≠ 7 ∧ exec (.bst 6) (ran [2, 6] 0 0 8) = .next t) ∧
    (∃ t, exec (.bxc 0) (ran [4, 0] 0 9 9) = .next t ∧ (ran [4, 0] 0 9 9).b = (ran [4, 0] 0 9 9).c) ∧
    (∃ t, exec (.bxc 0) (ran [4, 0] 0 9 0) = .next t ∧ (ran [4, 0] 0 9 0).c = 0) :=
  ⟨⟨_, _, rfl, rfl⟩, ⟨_, by decide, rfl⟩, ⟨_, rfl, rfl⟩, ⟨_, rfl, rfl⟩⟩

theorem witness_JnzJumpsWhenAIsNonzero : (ran [3, 7] 1 0 0).a ≠ 0 ∧ (ran [3, 7] 0 0 0).a = 0 := by decide

/-- One digit of room left, in both modes. -/
theorem witness_OutAppendsTheLowDigit :
    (∀ cap, (bounded 2).params.tapeCapacity = some cap → (bounded 2).tape.length < cap) ∧
    (bounded 2).mode = .full ∧ ({ bounded 2 with mode := .untilOut } : State).mode = .untilOut :=
  ⟨fun cap h => by cases h; decide, rfl, rfl⟩

/-- No room left, and a fault that it raises. -/
theorem witness_OnlyAFullTapeStopsAnInstruction :
    exec (.out 4) (bounded 1) = .fault .tapeOverflow ∧ (bounded 1).tape.length = 1 := ⟨rfl, rfl⟩

/-- A form other than `out` on a full tape, and `out` with one digit of room, in both modes. -/
theorem witness_EveryWellFormedInstructionCompletes :
    wellFormed (.bxl 7) = true ∧ (∀ x, Instr.bxl 7 ≠ .out x) ∧ wellFormed (.out 6) = true ∧
    (∀ cap, (bounded 2).params.tapeCapacity = some cap → (bounded 2).tape.length < cap) ∧
    (bounded 2).mode = .full ∧ ({ bounded 2 with mode := .untilOut } : State).mode = .untilOut :=
  ⟨rfl, fun _ h => (nomatch h), rfl, fun cap h => by cases h; decide, rfl, rfl⟩

theorem witness_PcAdvancesByTwoExceptJnz :
    (wellFormed (.jnz 5) = true ∧ (ran [3, 5] 1 0 0).a ≠ 0 ∧ ∃ t, exec (.jnz 5) (ran [3, 5] 1 0 0) = .next t) ∧
    ((ran [3, 5] 0 0 0).a = 0 ∧ ∃ t, exec (.jnz 5) (ran [3, 5] 0 0 0) = .next t) ∧
    (wellFormed (.bxl 5) = true ∧ ∃ t, exec (.bxl 5) (ran [1, 5] 0 0 0) = .next t) :=
  ⟨⟨rfl, by decide, _, rfl⟩, ⟨rfl, _, rfl⟩, ⟨rfl, _, rfl⟩⟩

theorem witness_InstructionWritesOnlyItsRow :
    (∃ t, exec (.adv 1) (ran [0, 1] 8 1 2) = .next t) ∧ writes (.adv 1) ≠ some .b ∧ wellFormed (.adv 1) = true :=
  ⟨⟨_, rfl⟩, by decide, rfl⟩

theorem witness_UnreadRegisterHasNoInfluence :
    wellFormed (.bdv 6) = true ∧ reads (.bdv 6) .b = false ∧ reads (.bdv 6) .c = true := by decide

/-- The last pair of the program. -/
theorem witness_StepRunsTheDecodedInstruction :
    ({ ran [1, 0, 5, 4] 0 0 0 with pc := 2 } : State).status = .running ∧
    ({ ran [1, 0, 5, 4] 0 0 0 with pc := 2 } : State).prog[2]? = some 5 ∧
    ({ ran [1, 0, 5, 4] 0 0 0 with pc := 2 } : State).prog[3]? = some 4 ∧ decode 5 4 = .ok (.out 4) := by decide

/-- `pc = N − 1`, the case of 90_conflicts.md C1. -/
theorem witness_HaltWhenNoPairIsAvailable :
    ({ ran [1, 0, 5, 4] 0 0 0 with pc := 3 } : State).status = .running ∧
    ({ ran [1, 0, 5, 4] 0 0 0 with pc := 3 } : State).pc + 1 ≥ (ran [1, 0, 5, 4] 0 0 0).prog.length := by decide

/-- The straddling pair of P4b, and an opcode that no LOAD admits. -/
theorem witness_DecoderFaultEntersFaulted :
    ({ ran [3, 3, 1, 5, 7, 0] 1 0 0 with pc := 3 } : State).prog[3]? = some 5 ∧
    ({ ran [3, 3, 1, 5, 7, 0] 1 0 0 with pc := 3 } : State).prog[4]? = some 7 ∧
    ({ ran [3, 3, 1, 5, 7, 0] 1 0 0 with pc := 3 } : State).status = .running ∧
    decode 5 7 = .error .invalidOperand ∧ decode 8 0 = .error .invalidOpcode ∧
    (ran [8, 0] 0 0 0).prog[0]? = some 8 ∧ (ran [8, 0] 0 0 0).prog[1]? = some 0 := by decide

theorem witness_PlacedWordIsTheNextInstruction : decodeTableWord 8 0b111110 = some (.cdv 6) ∧ 0b111110 < 256 := by decide

theorem witness_IdleEngineHoldsItsState : State.reset.status ≠ .running := by decide

theorem witness_EveryStepHasANextState :
    State.reset.params.tapeCapacity = none ∧ step (bounded 1) = .fault .tapeOverflow := ⟨rfl, rfl⟩

/-- One step to each way a run goes on or ends. -/
theorem witness_HowARunEnds :
    nextIs (step (ran [1, 0] 0 0 0)) (fun t => t.status == .running) = true ∧
    nextIs (step (ranUntilOut [5, 0] 0 0 0)) (fun t => t.status == .stopped) = true ∧
    nextIs (step (ran [] 0 0 0)) (fun t => t.status == .halted) = true ∧
    nextIs (step (ran [8, 0] 0 0 0)) (fun t => t.status == .faulted) = true := by decide

theorem witness_ExecutionFaultIsPrecise :
    ∃ t, (ran [8, 0] 0 0 0).status = .running ∧ step (ran [8, 0] 0 0 0) = .next t ∧ t.status = .faulted :=
  ⟨_, rfl, rfl, rfl⟩

theorem witness_CheckedProgramFaultsOnlyAtOddPc :
    loadCheck [3, 3, 1, 5, 7, 0] = none ∧
    nextIs (step { ran [3, 3, 1, 5, 7, 0] 1 0 0 with pc := 3 }) (fun t => t.status == .faulted) = true := by decide

/-- At the bound itself: `pc = 7` by a jump, and `pc = N` by an advance. -/
theorem witness_PcStaysWithinItsBound :
    (∃ t, (ran [3, 7] 1 0 0).pc ≤ max 2 7 ∧ step (ran [3, 7] 1 0 0) = .next t ∧ t.pc = 7) ∧
    (∃ t, step { ran [1, 0, 1, 0, 1, 0, 1, 0] 0 0 0 with pc := 6 } = .next t ∧ t.pc = 8) :=
  ⟨⟨_, by decide, rfl, rfl⟩, ⟨_, rfl, rfl⟩⟩

theorem witness_OnlyAnOddJumpMakesPcOdd :
    ∃ t, (ran [3, 1] 1 0 0).status = .running ∧ (ran [3, 1] 1 0 0).pc % 2 = 0 ∧
      step (ran [3, 1] 1 0 0) = .next t ∧ t.pc % 2 = 1 := ⟨_, rfl, rfl, rfl, rfl⟩

theorem witness_ProgramIsImmutableDuringARun : ∃ t, steps 2 (ran [5, 1, 5, 2] 0 0 0) = .next t := ⟨_, rfl⟩

theorem witness_TapeIsTheOutEventsInOrder :
    nextIs (steps 2 (ran [5, 1, 5, 2] 0 0 0)) (fun t => t.tape == [1, 2]) = true ∧
    outEvents 2 (ran [5, 1, 5, 2] 0 0 0) = [1, 2] := by decide

theorem witness_SelfLoopNeverEnds :
    (ran [3, 0] 1 0 0).status = .running ∧ (ran [3, 0] 1 0 0).a ≠ 0 ∧ (ran [3, 0] 1 0 0).pc ≤ 7 ∧
    (ran [3, 0] 1 0 0).prog[0]? = some 3 ∧ (ran [3, 0] 1 0 0).prog[1]? = some 0 := by decide

/-- V-M1 to V-M3 in small: two digits, a stop between them. -/
theorem witness_UntilOutRunsTakeTheStepsOfOneFullRun :
    (ranUntilOut [5, 1, 5, 2] 0 0 0).status = .running ∧
    nextIs (untilOutRuns 2 (ranUntilOut [5, 1, 5, 2] 0 0 0)) (fun t => t.tape == [1, 2]) = true ∧
    nextIs (step (ranUntilOut [5, 1, 5, 2] 0 0 0)) (fun t => t.status == .stopped) = true := by decide

/-- A running core that meets the invariant and has a next state. -/
theorem witness_invariant_of_a_running_core :
    CoreInv (ran [5, 4] 9 0 0) ∧ ∃ t, step (ran [5, 4] 9 0 0) = .next t :=
  ⟨{ idle_iff := by decide
     powerOn_values := by decide
     loadFailed_faulted := by decide
     loaded_checked := by decide
     loaded_fits := by decide
     pc_bound := by decide
     faulted_iff := by decide
     faultAt_iff := by decide
     run_fault := by decide
     halted_end := by decide
     stopped_digit := by decide
     ready_start := by decide
     tape_fits := fun _ h => nomatch h }, _, rfl⟩

/-- A session with commands and steps. -/
theorem witness_SessionKeepsTheInvariant :
    ∃ t, session [none, some (.load [8] 0 0 0), some (.run .full), none] (ran [5, 4] 9 0 0) = .next t := ⟨_, rfl⟩

/-- A program of exactly MAX_PROG_LEN elements passes, another one fails. -/
theorem witness_LoadInstallsOrFaults :
    (State.powerOn { maxProgLen := some 2, tapeCapacity := none }).status ≠ .running ∧
    (∀ m, (State.powerOn { maxProgLen := some 2, tapeCapacity := none }).params.maxProgLen = some m →
      [5, 6].length ≤ m) ∧
    loadCheck [5, 6] = none ∧ loadCheck [5, 7] = some (.illegalPair .invalidOperand, 0) :=
  ⟨by decide, fun m h => by cases h; decide, by decide, by decide⟩

theorem witness_RunStartsOrResumes :
    (install [5, 1] 0 0 0 State.reset).status = .ready ∧
    nextIs (step (ranUntilOut [5, 1] 0 0 0)) (fun t => t.status == .stopped) = true := by decide

theorem witness_RefusedCommandsChangeNothing :
    accepts (.run .full) State.reset = false ∧ accepts (.load [] 0 0 0) (ran [] 0 0 0) = false := by decide

theorem witness_FaultIsStickyUntilALoad :
    (enterFault .invalidOperand 3 (ran [3, 3, 1, 5, 7, 0] 1 0 0)).status = .faulted ∧
    nextIs (transition (some (.load [5, 1] 0 0 0)) (enterFault .invalidOperand 3 (ran [3, 3, 1, 5, 7, 0] 1 0 0)))
      (fun t => t.status == .ready) = true := by decide

theorem witness_LoadErasesTheEarlierRun :
    State.reset.params = (enterHalt (ran [5, 4] 9 0 0)).params ∧ State.reset.status ≠ .running ∧
    (enterHalt (ran [5, 4] 9 0 0)).status ≠ .running ∧ loadCheck [5, 1] = none ∧
    (∀ n, State.reset.params.maxProgLen = some n → [5, 1].length ≤ n) :=
  ⟨rfl, by decide, by decide, by decide, fun _ h => nomatch h⟩

theorem witness_ReadbackOutsideARun :
    (ran [5, 4] 9 0 0).status = .running ∧ (enterHalt (ran [5, 4] 9 0 0)).status ≠ .running ∧
    (enterHalt (ran [5, 4] 9 0 0)).held = .loaded ∧
    State.reset.status ≠ .running ∧ State.reset.held = .powerOn ∧
    nextIs (hostLoad [8] 0 0 0 State.reset) (fun t => t.status != .running && t.held == .loadFailed) = true := by decide

/-- R46 and 93 U10: after power-on `pc` reads as 0, and A and TAPE are refused. -/
theorem test_reads_after_reset :
    (match hostRead .pc State.reset, hostRead .a State.reset, hostRead .tape State.reset with
     | .ok (.index 0), .error .readHoldsNoValue, .error .readHoldsNoValue => true
     | _, _, _ => false) = true := by decide

/-- Each end of a run; the stopped one with the digit it emitted. -/
theorem witness_ResultOfEachEndOfARun :
    (enterHalt (ran [] 1 2 3)).status = .halted ∧ (enterHalt (ran [] 1 2 3)).mode = .full ∧
    (enterHalt (ranUntilOut [] 1 2 3)).mode = .untilOut ∧
    (enterFault .invalidOperand 3 (ran [] 1 2 3)).status = .faulted := by decide

theorem witness_UntilOutReturnsTheDigitJustEmitted :
    ∃ t, (ranUntilOut [5, 4] 9 0 0).status = .running ∧ (ranUntilOut [5, 4] 9 0 0).mode = .untilOut ∧
      step (ranUntilOut [5, 4] 9 0 0) = .next t ∧ t.status = .stopped := ⟨_, rfl, rfl, rfl, rfl⟩

/-- A stopped core that meets the invariant. -/
theorem witness_invariant_of_a_stopped_core :
    CoreInv { ranUntilOut [5, 4] 9 0 0 with status := .stopped, tape := [1], pc := 2 } :=
  { idle_iff := by decide
    powerOn_values := by decide
    loadFailed_faulted := by decide
    loaded_checked := by decide
    loaded_fits := by decide
    pc_bound := by decide
    faulted_iff := by decide
    faultAt_iff := by decide
    run_fault := by decide
    halted_end := by decide
    stopped_digit := by decide
    ready_start := by decide
    tape_fits := fun _ h => nomatch h }

end Witnesses

end Sys2Proof.Tests
end

/-! ## What a commit and an instruction do to `pc` (R25, R107) -/

namespace Sys2Proof.Machine

/-- The next state a commit answers, if it answers one (R107). -/
theorem commit_eq_next {e : Effect} {s t : State} (h : commit e s = .next t) :
    (e.digit = none ∧ t = writeBack e s) ∨
    (∃ d, e.digit = some d ∧ tapeHasRoom s = true ∧ t = stopAfterOut (appendDigit d (writeBack e s))) := by
  obtain ⟨hd, hc⟩ | ⟨d, hd, hroom, hc⟩ | ⟨d, -, -, hc⟩ := commit_cases e s
  · exact .inl ⟨hd, by cases hc.symm.trans h; rfl⟩
  · exact .inr ⟨d, hd, hroom, by cases hc.symm.trans h; rfl⟩
  · cases hc.symm.trans h

/-- A commit sets `pc` to the effect's, with a digit or without. -/
theorem commit_pc {e : Effect} {s t : State} (h : commit e s = .next t) : t.pc = e.pc := by
  obtain ⟨-, rfl⟩ | ⟨d, -, -, rfl⟩ := commit_eq_next h <;> simp

/-- A well-formed instruction raises nothing: its execution is the commit of its effect (R75, R105). -/
theorem exec_of_wellFormed {i : Instr} (hwf : wellFormed i = true) (s : State) :
    ∃ e, Executes s i e ∧ exec i s = commit e s := by
  obtain h | ⟨hill, -⟩ := exec_cases i s
  · exact h
  · exact absurd (hwf.symm.trans hill) (by decide)

/-- R140: with A ≠ 0 the effect of `jnz` has the literal target for `pc`. -/
theorem Executes.pc_of_jump {s : State} {x : Octal} {e : Effect} (h : Executes s (.jnz x) e) (ha : s.a ≠ 0) :
    e.pc = literalTarget x := by
  cases h with
  | jump _ => rfl
  | fall h0 => exact absurd h0 ha

/-- R140: with A = 0 the effect of `jnz` advances `pc`. -/
theorem Executes.pc_of_fall {s : State} {x : Octal} {e : Effect} (h : Executes s (.jnz x) e) (ha : s.a = 0) :
    e.pc = s.pc + 2 := by
  cases h with
  | jump hne => exact absurd ha hne
  | fall _ => rfl

/-- R25: the effect of every instruction except `jnz` advances `pc`. -/
theorem Executes.pc_of_ne_jnz {s : State} {i : Instr} {e : Effect} (h : Executes s i e) (hi : ∀ x, i ≠ .jnz x) :
    e.pc = s.pc + 2 := by
  cases h with
  | jump _ => exact absurd rfl (hi _)
  | fall _ => exact absurd rfl (hi _)
  | _ => rfl

/-- Settles O22: the next state has the `pc` of the committed effect, which is the target of a taken `jnz` and
`pc + 2` for all else. -/
theorem pcAdvancesByTwoExceptJnz : Obligations.PcAdvancesByTwoExceptJnz := by
  intro i s t hwf hexec
  obtain ⟨e, he, hcommit⟩ := exec_of_wellFormed hwf s
  have hpc : t.pc = e.pc := commit_pc (hcommit.symm.trans hexec)
  rw [hpc]
  refine ⟨?_, ?_, he.pc_of_ne_jnz⟩
  · rintro x rfl ha
    exact he.pc_of_jump ha
  · rintro x rfl ha
    exact he.pc_of_fall ha

end Sys2Proof.Machine

/-! ## The two answers of a LOAD that the core takes (R41) -/

namespace Sys2Proof.Machine

/-- R5: MAX_PROG_LEN admits a program, as a bound. -/
theorem progFits_iff (p : Config.Params) (prog : List Nat) :
    progFits p prog = true ↔ ∀ m, p.maxProgLen = some m → prog.length ≤ m := by
  unfold progFits
  cases p.maxProgLen <;> simp

section TakenLoad

variable {prog : List Nat} {s : State}

/-- R41: a LOAD whose check passes installs the program. -/
theorem hostLoad_of_check_passes (hs : s.status ≠ .running) (hfits : progFits s.params prog = true)
    (hcheck : loadCheck prog = none) (a b c : Word) :
    hostLoad prog a b c s = .next (install prog a b c s) := by
  simp [hostLoad, hs, hfits, hcheck]

/-- R41: a LOAD whose check fails drops what the core held and enters FAULTED. -/
theorem hostLoad_of_check_fails {f : LoadFault} {info : Nat} (hs : s.status ≠ .running)
    (hfits : progFits s.params prog = true) (hcheck : loadCheck prog = some (f, info)) (a b c : Word) :
    hostLoad prog a b c s = .next (enterFault (loadFaultCode f) info (dropContents s)) := by
  simp [hostLoad, hs, hfits, hcheck]

end TakenLoad

/-- R41: after a LOAD that failed its check, a read of A, B, C, `pc` or TAPE is refused. -/
theorem hostRead_of_loadFailed {t : State} {item : ReadItem} (hs : t.status ≠ .running) (hh : t.held = .loadFailed)
    (hitem : item = .a ∨ item = .b ∨ item = .c ∨ item = .pc ∨ item = .tape) :
    hostRead item t = .error .readHoldsNoValue := by
  apply hostRead_unreadable hs
  rw [hh]
  obtain rfl | rfl | rfl | rfl | rfl := hitem <;> rfl

/-- Settles O44: a passing check leads to `install`, a failing one to a fault entry over `dropContents`, after which the
reads have no value. -/
theorem loadInstallsOrFaults : Obligations.LoadInstallsOrFaults := by
  intro prog a b c s hs hlen
  have hfits : progFits s.params prog = true := (progFits_iff s.params prog).mpr hlen
  constructor
  · intro hcheck
    exact hostLoad_of_check_passes hs hfits hcheck a b c
  · intro f info hcheck
    have hfaulted : (enterFault (loadFaultCode f) info (dropContents s)).status ≠ .running := by simp
    refine ⟨_, hostLoad_of_check_fails hs hfits hcheck a b c, rfl, rfl, rfl, rfl, ?_, ?_⟩
    · cases f with
      | malformedProgram => rfl
      | illegalPair g => cases g <;> rfl
    · intro item hitem
      exact hostRead_of_loadFailed hfaulted rfl hitem

end Sys2Proof.Machine

/-! ## What a well-formed instruction decodes from, and what an ill-formed one answers (R75–R79) -/

namespace Sys2Proof

/-- R75, R82: an instruction is ill formed exactly when it is of combo kind and its operand is 7. -/
theorem wellFormed_eq_false_iff (i : Instr) :
    wellFormed i = false ↔ operandKind i = .combo ∧ operandOf i = 7 := by
  cases i <;> simp [wellFormed, comboLegal, operandKind, operandOf]

/-- R72: the row of an instruction's opcode, at its operand, is the instruction. -/
theorem opcodeTable_opcodeOf (i : Instr) : opcodeTable (opcodeOf i) (operandOf i) = some i := by
  cases i <;> rfl

/-- R79: the decoder reads a well-formed instruction back from its two elements. -/
theorem decode_of_wellFormed {i : Instr} (hwf : wellFormed i = true) :
    decode (opcodeOf i) (operandOf i).toNat = .ok i := by
  have hrange : ¬ 7 < (operandOf i).toNat := by omega
  have hlegal : ¬ (operandKind i = .combo ∧ (operandOf i).toNat = 7) := by
    rintro ⟨hkind, h7⟩
    have hill := (wellFormed_eq_false_iff i).mpr ⟨hkind, BitVec.eq_of_toNat_eq h7⟩
    exact absurd (hwf.symm.trans hill) (by decide)
  simp only [decode, BitVec.ofNat_toNat, BitVec.setWidth_eq, opcodeTable_opcodeOf, if_neg hrange, if_neg hlegal]

end Sys2Proof

namespace Sys2Proof.Machine

/-- R75: a combo operand that has a value is legal. -/
theorem comboLegal_of_combo {x : Octal} {s : State} {k : Word} (h : combo x s = some k) : comboLegal x = true := by
  have hx : x ≠ 7 := fun h7 => by simp [(combo_eq_none x s).mpr h7] at h
  simpa [comboLegal] using hx

/-- R82, R105: only a well-formed instruction has an effect. -/
theorem Executes.wellFormed {s : State} {i : Instr} {e : Effect} (h : Executes s i e) : wellFormed i = true := by
  cases h with
  | bxl | bxc | jump _ | fall _ => rfl
  | adv hk | bdv hk | cdv hk | bst hk | out hk => exact comboLegal_of_combo hk

/-- R75: an ill-formed instruction raises InvalidOperand at `pc` and does nothing else. -/
theorem exec_of_illFormed {i : Instr} (hill : wellFormed i = false) (s : State) :
    exec i s = .next (enterFault .invalidOperand s.pc s) := by
  obtain ⟨e, he, -⟩ | ⟨-, hfault⟩ := exec_cases i s
  · exact absurd (he.wellFormed.symm.trans hill) (by decide)
  · exact hfault

/-- R75: the combo operands 0 to 3 are constants. -/
theorem combo_literal {x : Octal} (hx : x.toNat ≤ 3) (s : State) : combo x s = some (zext x) := by
  have hsource : comboSource x = some (.literal x) := by revert x; decide
  simp only [combo, hsource, Option.map_some, sourceValue]

/-- R132: `bxc` writes `B xor C` to B and advances, whatever its operand. -/
theorem exec_bxc (x : Octal) (s : State) :
    exec (.bxc x) s = .next (writeBack { advance s with b := s.b ^^^ s.c } s) := by
  simp only [exec, execBxc]
  exact commit_noDigit rfl s

/-- Settles O8: constants, then the registers, and 7 makes an instruction of combo kind ill formed. -/
theorem comboOperandResolution : Obligations.ComboOperandResolution := by
  intro s
  refine ⟨combo_literal (by decide) s, combo_literal (by decide) s, combo_literal (by decide) s,
    combo_literal (by decide) s, rfl, rfl, rfl, (combo_eq_none 7 s).mpr rfl, ?_⟩
  intro i hkind h7
  exact exec_of_illFormed ((wellFormed_eq_false_iff i).mpr ⟨hkind, h7⟩) s

/-- Settles O9: `bxl` and `jnz` are well formed at every operand, and zero extension keeps the number. -/
theorem literalOperandIsTheNumber : Obligations.LiteralOperandIsTheNumber := fun x =>
  ⟨decode_of_wellFormed (i := .bxl x) rfl, decode_of_wellFormed (i := .jnz x) rfl, zext_toNat x, rfl⟩

/-- Settles O10: `bxc` is well formed at every operand, and the state it leads to does not mention the operand. -/
theorem bxcIgnoresItsOperand : Obligations.BxcIgnoresItsOperand := fun x y s =>
  ⟨decode_of_wellFormed (i := .bxc x) rfl, (exec_bxc x s).trans (exec_bxc y s).symm,
    _, exec_bxc x s, writeBack_status _ s, writeBack_fault _ s⟩

end Sys2Proof.Machine

/-! ## What the step of a running engine is, by what stands at `pc` and `pc + 1` (R101–R103) -/

namespace Sys2Proof.Machine

section RunningStep

variable {s : State} {op x : Nat}

/-- R101: no pair is available where element `pc + 1` does not exist. -/
theorem step_of_no_pair (hs : s.status = .running) (hend : s.prog.length ≤ s.pc + 1) :
    step s = .next (enterHalt s) := by
  obtain ⟨hidle, -⟩ | ⟨-, -, hstep⟩ | ⟨op, x, -, -, h1, -⟩ := step_cases s
  · exact absurd hs hidle
  · exact hstep
  · have hlt : s.pc + 1 < s.prog.length := (List.getElem?_eq_some_iff.mp h1).1
    omega

/-- R102, R103: with the two elements there, the decoder alone says which step it is. -/
theorem step_of_pair (hs : s.status = .running) (h0 : s.prog[s.pc]? = some op) (h1 : s.prog[s.pc + 1]? = some x) :
    (∃ i, decode op x = .ok i ∧ step s = exec i s) ∨
    (∃ f, decode op x = .error f ∧ step s = .next (enterFault (decodeFaultCode f) s.pc s)) := by
  obtain ⟨hidle, -⟩ | ⟨-, hend, -⟩ | ⟨op', x', -, h0', h1', hstep⟩ := step_cases s
  · exact absurd hs hidle
  · have hlt : s.pc + 1 < s.prog.length := (List.getElem?_eq_some_iff.mp h1).1
    omega
  · obtain rfl : op' = op := Option.some.inj (h0'.symm.trans h0)
    obtain rfl : x' = x := Option.some.inj (h1'.symm.trans h1)
    exact hstep

/-- R102, R107: a pair that decodes is executed. -/
theorem step_of_decode_ok {i : Instr} (hs : s.status = .running) (h0 : s.prog[s.pc]? = some op)
    (h1 : s.prog[s.pc + 1]? = some x) (hd : decode op x = .ok i) : step s = exec i s := by
  obtain ⟨i', hd', hstep⟩ | ⟨f, hd', -⟩ := step_of_pair hs h0 h1
  · cases hd'.symm.trans hd
    exact hstep
  · cases hd'.symm.trans hd

/-- R103: a pair that the decoder refuses is a fault entry at `pc`. -/
theorem step_of_decode_error {f : DecodeFault} (hs : s.status = .running) (h0 : s.prog[s.pc]? = some op)
    (h1 : s.prog[s.pc + 1]? = some x) (hd : decode op x = .error f) :
    step s = .next (enterFault (decodeFaultCode f) s.pc s) := by
  obtain ⟨i, hd', -⟩ | ⟨f', hd', hstep⟩ := step_of_pair hs h0 h1
  · cases hd'.symm.trans hd
  · cases hd'.symm.trans hd
    exact hstep

end RunningStep

/-- Settles O25: a pair admits an execution or a fault entry, and one that decodes admits only the execution. -/
theorem stepRunsTheDecodedInstruction : Obligations.StepRunsTheDecodedInstruction :=
  fun _ _ _ _ hs h0 h1 hd => step_of_decode_ok hs h0 h1 hd

/-- Settles O26: the step is the halt, and the halt writes STATUS alone. -/
theorem haltWhenNoPairIsAvailable : Obligations.HaltWhenNoPairIsAvailable :=
  fun _ hs hend => step_of_no_pair hs hend

/-- Settles O27: the step is the fault entry, which writes STATUS, FAULT and FAULT_AT alone; for either fault of the
decoder, FAULT takes the code of the same name. -/
theorem decoderFaultEntersFaulted : Obligations.DecoderFaultEntersFaulted := by
  intro s op x f hs h0 h1 hd
  rw [step_of_decode_error hs h0 h1 hd]
  cases f with
  | invalidOpcode => rfl
  | invalidOperand => rfl

end Sys2Proof.Machine

/-! ## The shift family (R120–R122) -/

namespace Sys2Proof

/-- R79: at the two elements of an ill-formed instruction the decoder raises InvalidOperand. -/
theorem decode_of_illFormed {i : Instr} (hill : wellFormed i = false) :
    decode (opcodeOf i) (operandOf i).toNat = .error .invalidOperand := by
  obtain ⟨hkind, h7⟩ := (wellFormed_eq_false_iff i).mp hill
  have hrange : ¬ 7 < (operandOf i).toNat := by omega
  have hseven : operandKind i = .combo ∧ (operandOf i).toNat = 7 := ⟨hkind, congrArg BitVec.toNat h7⟩
  simp only [decode, BitVec.ofNat_toNat, BitVec.setWidth_eq, opcodeTable_opcodeOf, if_neg hrange, if_pos hseven]

end Sys2Proof

namespace Sys2Proof.Machine

/-- R7: the shift as a word, the floor of the quotient. -/
theorem shiftRight_eq_ofNat (v k : Word) : shiftRight v k = BitVec.ofNat 64 (v.toNat / 2 ^ k.toNat) := by
  rw [← shiftRight_toNat, BitVec.ofNat_toNat, BitVec.setWidth_eq]

/-- R75, R107: a legal combo operand has a value, and an effect without a digit is written back for it. -/
theorem withCombo_noDigit {x : Octal} (hx : x ≠ 7) (s : State) {g : Word → Effect} (hg : ∀ k, (g k).digit = none) :
    ∃ k, combo x s = some k ∧ withCombo x s g = .next (writeBack (g k) s) := by
  obtain ⟨k, hk, hcommit⟩ | ⟨h7, -⟩ := withCombo_cases x s g
  · exact ⟨k, hk, hcommit.trans (commit_noDigit (hg k) s)⟩
  · exact absurd h7 hx

/-- R120–R122: for a legal operand with value `k`, the effect `put` of the destination receives `floor(A / 2^k)`. -/
theorem withCombo_shift {x : Octal} (hx : x ≠ 7) (s : State) {put : Word → Effect} (hput : ∀ v, (put v).digit = none) :
    ∃ k, combo x s = some k ∧ withCombo x s (fun k => put (shiftRight s.a k)) =
      .next (writeBack (put (BitVec.ofNat 64 (s.a.toNat / 2 ^ k.toNat))) s) := by
  obtain ⟨k, hk, hnext⟩ := withCombo_noDigit hx s (g := fun k => put (shiftRight s.a k)) fun k => hput _
  refine ⟨k, hk, ?_⟩
  rw [hnext, shiftRight_eq_ofNat]

/-- R75, R79: combo operand 7 is refused by the decoder, and the term itself raises InvalidOperand and does nothing else. -/
theorem combo_seven_invalidOperand {i : Instr} (hkind : operandKind i = .combo) (h7 : operandOf i = 7) (s : State) :
    decode (opcodeOf i) (operandOf i).toNat = .error .invalidOperand ∧
      exec i s = .next (enterFault .invalidOperand s.pc s) :=
  have hill : wellFormed i = false := (wellFormed_eq_false_iff i).mpr ⟨hkind, h7⟩
  ⟨decode_of_illFormed hill, exec_of_illFormed hill s⟩

/-- Settles O11: the effect written back is the advance with the quotient in A. -/
theorem advShiftsA : Obligations.AdvShiftsA := by
  intro x s
  refine ⟨rfl, rfl, ?_, ?_⟩
  · intro hx
    exact withCombo_shift hx s (put := fun v => { advance s with a := v }) fun _ => rfl
  · intro h7
    exact combo_seven_invalidOperand (i := .adv x) rfl h7 s

/-- Settles O12: the effect written back is the advance with the quotient in B. -/
theorem bdvShiftsAIntoB : Obligations.BdvShiftsAIntoB := by
  intro x s
  refine ⟨rfl, rfl, ?_, ?_⟩
  · intro hx
    exact withCombo_shift hx s (put := fun v => { advance s with b := v }) fun _ => rfl
  · intro h7
    exact combo_seven_invalidOperand (i := .bdv x) rfl h7 s

/-- Settles O13: the effect written back is the advance with the quotient in C. -/
theorem cdvShiftsAIntoC : Obligations.CdvShiftsAIntoC := by
  intro x s
  refine ⟨rfl, rfl, ?_, ?_⟩
  · intro hx
    exact withCombo_shift hx s (put := fun v => { advance s with c := v }) fun _ => rfl
  · intro h7
    exact combo_seven_invalidOperand (i := .cdv x) rfl h7 s

end Sys2Proof.Machine

/-! ## The bitwise family (R130–R132) -/

namespace Sys2Proof.Machine

/-- R130, R132: the xor of two words, as the word of the numbers' xor. -/
theorem xor_eq_ofNat (v w : Word) : v ^^^ w = BitVec.ofNat 64 (v.toNat ^^^ w.toNat) := by
  rw [← BitVec.toNat_xor, BitVec.ofNat_toNat, BitVec.setWidth_eq]

/-- R131: the low digit of a word, extended to a word again. -/
theorem zext_mod8_eq_ofNat (v : Word) : zext (mod8 v) = BitVec.ofNat 64 (v.toNat % 8) := by
  rw [← mod8_toNat, BitVec.ofNat_toNat, zext]

/-- R130: `bxl` writes `B xor lit(x)` to B and advances. -/
theorem exec_bxl (x : Octal) (s : State) :
    exec (.bxl x) s = .next (writeBack { advance s with b := s.b ^^^ literalWord x } s) := by
  simp only [exec, execBxl]
  exact commit_noDigit rfl s

/-- R131: for a legal operand with value `k`, `bst` writes the low digit of `k` to B and advances. -/
theorem exec_bst_of_legal {x : Octal} (hx : x ≠ 7) (s : State) :
    ∃ k, combo x s = some k ∧ exec (.bst x) s = .next (writeBack { advance s with b := zext (mod8 k) } s) := by
  simp only [exec, execBst]
  exact withCombo_noDigit hx s fun _ => rfl

/-- Settles O16: a legal operand's low digit is written back to B, and operand 7 makes `bst` ill formed. -/
theorem bstTakesTheLowDigit : Obligations.BstTakesTheLowDigit := by
  intro x s
  refine ⟨rfl, rfl, ?_, ?_⟩
  · intro hx
    obtain ⟨k, hk, hexec⟩ := exec_bst_of_legal hx s
    refine ⟨k, hk, ?_⟩
    rw [hexec, zext_mod8_eq_ofNat]
    rfl
  · intro h7
    exact combo_seven_invalidOperand (i := .bst x) rfl h7 s

/-- Settles O15: the xor with the zero-extended literal is the xor of the numbers. -/
theorem bxlXorsTheLiteral : Obligations.BxlXorsTheLiteral := by
  intro x s
  refine ⟨rfl, rfl, ?_⟩
  have hlit : (literalWord x).toNat = x.toNat := zext_toNat x
  rw [exec_bxl, xor_eq_ofNat, hlit]
  rfl

/-- Settles O17: the operand is not read, and the xor of B and C is the xor of the numbers. -/
theorem bxcXorsC : Obligations.BxcXorsC := by
  intro x s
  refine ⟨rfl, rfl, ?_⟩
  rw [exec_bxc, xor_eq_ofNat]
  rfl

end Sys2Proof.Machine

/-! ## The control family (R140) -/

namespace Sys2Proof.Machine

/-- R140: with A ≠ 0 `jnz` writes back the advance with the literal target for `pc`. -/
theorem exec_jnz_of_a_ne_zero (x : Octal) {s : State} (ha : s.a ≠ 0) :
    exec (.jnz x) s = .next (writeBack { advance s with pc := literalTarget x } s) := by
  simp only [exec, execJnz, if_pos ((aNonzero_iff s).mpr ha)]
  exact commit_noDigit rfl s

/-- R140: with A = 0 `jnz` writes back the advance, whatever its target. -/
theorem exec_jnz_of_a_eq_zero (x : Octal) {s : State} (ha : s.a = 0) :
    exec (.jnz x) s = .next (writeBack (advance s) s) := by
  have hfall : ¬ aNonzero s = true := fun h => (aNonzero_iff s).mp h ha
  simp only [exec, execJnz, if_neg hfall]
  exact commit_noDigit rfl s

/-- Settles O19: `jnz` is well formed at every operand, and what is written back in either case differs from the state
in `pc` alone. -/
theorem jnzJumpsWhenAIsNonzero : Obligations.JnzJumpsWhenAIsNonzero := fun x _ =>
  ⟨rfl, rfl, decode_of_wellFormed (i := .jnz x) rfl, exec_jnz_of_a_ne_zero x, exec_jnz_of_a_eq_zero x⟩

end Sys2Proof.Machine

/-! ## The output family (R150) -/

namespace Sys2Proof.Machine

/-- R7, R150: the low digit of a word, as the 3-bit value of the number modulo 8. -/
theorem mod8_eq_ofNat (v : Word) : mod8 v = BitVec.ofNat 3 (v.toNat % 8) := by
  rw [← mod8_toNat, BitVec.ofNat_toNat, BitVec.setWidth_eq]

/-- R107: with room on the tape, a digit is appended to the write-back, and an UNTIL_OUT run ends there. -/
theorem commit_digit {e : Effect} {d : Octal} {s : State} (hd : e.digit = some d) (hroom : tapeHasRoom s = true) :
    commit e s = .next (stopAfterOut (appendDigit d (writeBack e s))) := by
  simp only [commit, hd, hroom, if_true]

/-- R150: for a legal operand with value `k`, `out` advances and appends the low digit of `k`. -/
theorem exec_out_of_legal {x : Octal} (hx : x ≠ 7) {s : State} (hroom : tapeHasRoom s = true) :
    ∃ k, combo x s = some k ∧
      exec (.out x) s = .next (stopAfterOut (appendDigit (mod8 k) (writeBack (advance s) s))) := by
  obtain ⟨k, hk, hcommit⟩ | ⟨h7, -⟩ := withCombo_cases x s fun k => { advance s with digit := some (mod8 k) }
  · exact ⟨k, hk, hcommit.trans (commit_digit rfl hroom)⟩
  · exact absurd h7 hx

/-- Settles O20: a legal operand's low digit is appended to the advanced state, which MODE alone decides to stop, and
operand 7 makes `out` ill formed. -/
theorem outAppendsTheLowDigit : Obligations.OutAppendsTheLowDigit := by
  intro x s
  refine ⟨rfl, rfl, ?_, ?_⟩
  · intro hx hbound
    obtain ⟨k, hk, hexec⟩ := exec_out_of_legal hx ((tapeHasRoom_iff s).mpr hbound)
    rw [mod8_eq_ofNat] at hexec
    refine ⟨k, hk, ?_, ?_⟩
    · intro hfull
      rw [hexec, stopAfterOut_full (s := appendDigit _ (writeBack _ s)) hfull]
      rfl
    · intro huntil
      rw [hexec, stopAfterOut_untilOut (s := appendDigit _ (writeBack _ s)) huntil]
      rfl
  · intro h7
    exact combo_seven_invalidOperand (i := .out x) rfl h7 s

end Sys2Proof.Machine

/-! ## What leaves a core that does not run as it is, and what a LOAD makes of it (R41, R45, R167, R178) -/

namespace Sys2Proof.Machine

/-- R178: the engine of a core that does not run does nothing. -/
theorem step_of_not_running {s : State} (hs : s.status ≠ .running) : step s = .next s := by
  obtain ⟨-, hstep⟩ | ⟨hrun, -⟩ | ⟨_, _, hrun, -⟩ := step_cases s
  · exact hstep
  · exact absurd hrun hs
  · exact absurd hrun hs

/-- R42, R45: RUN is accepted in READY and STOPPED. -/
theorem accepts_run_iff (m : Mode) (s : State) :
    accepts (.run m) s = true ↔ s.status = .ready ∨ s.status = .stopped := by
  simp [accepts]

/-- R45: a RUN that is not accepted changes nothing. -/
theorem hostRun_of_not_accepted {m : Mode} {s : State} (h : accepts (.run m) s = false) : hostRun m s = s := by
  obtain ⟨hstatus, -⟩ | ⟨-, -, hsame⟩ := hostRun_cases m s
  · exact absurd (h.symm.trans ((accepts_run_iff m s).mpr hstatus)) (by decide)
  · exact hsame

/-- R41: the next state a LOAD outside a run answers, if it answers one. -/
theorem hostLoad_eq_next {prog : List Nat} {a b c : Word} {s t : State} (hs : s.status ≠ .running)
    (h : hostLoad prog a b c s = .next t) :
    (loadCheck prog = none ∧ t = install prog a b c s) ∨
    (∃ f info, loadCheck prog = some (f, info) ∧ t = enterFault (loadFaultCode f) info (dropContents s)) := by
  obtain ⟨hrun, -⟩ | ⟨-, -, hl⟩ | ⟨-, -, hcheck, hl⟩ | ⟨f, info, -, -, hcheck, hl⟩ := hostLoad_cases prog a b c s
  · exact absurd hrun hs
  · cases hl.symm.trans h
  · exact .inl ⟨hcheck, by cases hl.symm.trans h; rfl⟩
  · exact .inr ⟨f, info, hcheck, by cases hl.symm.trans h; rfl⟩

/-- Settles O47: a FAULTED core neither runs nor accepts RUN, so a step and a RUN leave it as it is; a LOAD either
installs its program or enters the fault of its check. -/
theorem faultIsStickyUntilALoad : Obligations.FaultIsStickyUntilALoad := by
  intro s hfaulted
  have hidle : s.status ≠ .running := by simp [hfaulted]
  have hrefused (m : Mode) : accepts (.run m) s = false := by simp [accepts, hfaulted]
  refine ⟨hrefused, fun cmd t htrans => ?_⟩
  match cmd with
  | none =>
    cases (step_of_not_running hidle).symm.trans htrans
    exact .inl rfl
  | some (.run m) =>
    have hsame : hostCommand (.run m) s = .next s := by
      rw [hostCommand, hostRun_of_not_accepted (hrefused m)]
    cases hsame.symm.trans htrans
    exact .inl rfl
  | some (.load prog a b c) =>
    refine .inr ⟨prog, a, b, c, rfl, ?_⟩
    obtain ⟨hcheck, rfl⟩ | ⟨f, info, hcheck, rfl⟩ := hostLoad_eq_next hidle htrans
    · exact .inl ⟨hcheck, rfl, rfl, rfl⟩
    · exact .inr ⟨by simp [hcheck], rfl⟩

end Sys2Proof.Machine

/-! ## A taken LOAD and the RUN after it, as one session (R47, R192) -/

namespace Sys2Proof.Machine

/-- R42: RUN starts a core that is READY. -/
theorem hostRun_of_ready {s : State} (hs : s.status = .ready) (m : Mode) : hostRun m s = startRun m s := by
  obtain ⟨-, hrun⟩ | ⟨hne, -, -⟩ := hostRun_cases m s
  · exact hrun
  · exact absurd hs hne

/-- R47: a session whose first action leads to a state goes on from that state. -/
theorem session_cons_of_next {cmd : Option Command} {s t : State} (h : transition cmd s = .next t)
    (rest : List (Option Command)) : session (cmd :: rest) s = session rest t := by
  simp only [session, h]

/-- R41, R42: a LOAD whose check passes and the RUN after it start the installed program. -/
theorem session_load_run {prog : List Nat} {s : State} (hs : s.status ≠ .running)
    (hfits : progFits s.params prog = true) (hcheck : loadCheck prog = none) (a b c : Word) (m : Mode) :
    session [some (.load prog a b c), some (.run m)] s = .next (startRun m (install prog a b c s)) := by
  have hload : transition (some (.load prog a b c)) s = .next (install prog a b c s) :=
    hostLoad_of_check_passes hs hfits hcheck a b c
  have hrun : transition (some (.run m)) (install prog a b c s) = .next (startRun m (install prog a b c s)) := by
    rw [transition, hostCommand, hostRun_of_ready (install_status prog a b c s)]
  rw [session_cons_of_next hload, session_cons_of_next hrun, session]

/-- R46, R192: LOAD writes every field but MODE and the parameters, and RUN writes MODE. -/
theorem startRun_install_eq {s1 s2 : State} (hparams : s1.params = s2.params) (prog : List Nat) (a b c : Word)
    (m : Mode) : startRun m (install prog a b c s1) = startRun m (install prog a b c s2) := by
  simp only [startRun, install, hparams]

/-- Settles O48: from either state the session starts the installed program, and of the state before only the parameters
remain. -/
theorem loadErasesTheEarlierRun : Obligations.LoadErasesTheEarlierRun := by
  intro prog a b c m s1 s2 hparams hs1 hs2 hcheck hlen
  have hfits1 : progFits s1.params prog = true := (progFits_iff s1.params prog).mpr hlen
  have hfits2 : progFits s2.params prog = true := hparams ▸ hfits1
  refine ⟨startRun m (install prog a b c s1), session_load_run hs1 hfits1 hcheck a b c m, ?_, rfl, rfl⟩
  rw [startRun_install_eq hparams]
  exact session_load_run hs2 hfits2 hcheck a b c m

end Sys2Proof.Machine

/-! ## The decoder, read both ways (R70–R72, R79, R82) -/

namespace Sys2Proof

/-- The opcodes of combo kind (R72). -/
def ComboOpcode (op : Nat) : Prop := op = 0 ∨ op = 2 ∨ op = 5 ∨ op = 6 ∨ op = 7

/-- R72: an instruction is of combo kind exactly when its opcode is. -/
theorem comboOpcode_opcodeOf_iff (i : Instr) : ComboOpcode (opcodeOf i) ↔ operandKind i = .combo := by
  cases i <;> simp [ComboOpcode, opcodeOf, operandKind]

/-- R70: the opcode of an instruction is an element 0–7. -/
theorem opcodeOf_lt (i : Instr) : opcodeOf i < 8 := by
  cases i <;> simp [opcodeOf]

/-- R72: every opcode 0–7 has a row, and the instruction of the row has that opcode and the operand given. -/
theorem opcodeTable_of_lt {op : Nat} (hop : op < 8) (x : Octal) :
    ∃ i, opcodeTable op x = some i ∧ opcodeOf i = op ∧ operandOf i = x := by
  match op with
  | 0 | 1 | 2 | 3 | 4 | 5 | 6 | 7 => exact ⟨_, rfl, rfl, rfl⟩

/-- R79: an opcode element above 7 is InvalidOpcode, whatever stands after it. -/
theorem decode_of_opcode_above {op : Nat} (hop : 7 < op) (x : Nat) : decode op x = .error .invalidOpcode := by
  match op with
  | n + 8 => rfl

/-- R79: after an opcode 0–7, an operand element above 7 is InvalidOperand. -/
theorem decode_of_operand_above {op x : Nat} (hop : op < 8) (hx : 7 < x) : decode op x = .error .invalidOperand := by
  obtain ⟨i, hrow, -, -⟩ := opcodeTable_of_lt hop (BitVec.ofNat 3 x)
  simp only [decode, hrow, if_pos hx]

/-- R70: two elements 0–7 are the opcode and the operand of a term, well formed or not. -/
theorem exists_instr_of_octal {op x : Nat} (hop : op < 8) (hx : x < 8) :
    ∃ i, opcodeOf i = op ∧ (operandOf i).toNat = x := by
  obtain ⟨i, -, hopcode, hoperand⟩ := opcodeTable_of_lt hop (BitVec.ofNat 3 x)
  refine ⟨i, hopcode, ?_⟩
  rw [hoperand, BitVec.toNat_ofNat]
  omega

/-- R79, R82: two elements decode to an instruction exactly when they are its opcode and operand and it is well
formed. -/
theorem decode_eq_ok_iff {op x : Nat} {i : Instr} :
    decode op x = .ok i ↔ opcodeOf i = op ∧ (operandOf i).toNat = x ∧ wellFormed i = true := by
  constructor
  · intro hd
    have hop : op < 8 := by
      by_contra h
      cases (decode_of_opcode_above (by omega) x).symm.trans hd
    have hx : x < 8 := by
      by_contra h
      cases (decode_of_operand_above hop (by omega)).symm.trans hd
    obtain ⟨j, rfl, rfl⟩ := exists_instr_of_octal hop hx
    cases hwf : wellFormed j with
    | true =>
      cases (decode_of_wellFormed hwf).symm.trans hd
      exact ⟨rfl, rfl, hwf⟩
    | false => cases (decode_of_illFormed hwf).symm.trans hd
  · rintro ⟨rfl, rfl, hwf⟩
    exact decode_of_wellFormed hwf

/-- R79, R82: two elements 0–7 are refused only for operand 7 of a combo opcode. -/
theorem decode_error_of_octal {op x : Nat} {f : DecodeFault} (hop : op < 8) (hx : x < 8)
    (hd : decode op x = .error f) : f = .invalidOperand ∧ ComboOpcode op ∧ x = 7 := by
  obtain ⟨i, rfl, rfl⟩ := exists_instr_of_octal hop hx
  cases hwf : wellFormed i with
  | true => cases (decode_of_wellFormed hwf).symm.trans hd
  | false =>
    obtain ⟨hkind, h7⟩ := (wellFormed_eq_false_iff i).mp hwf
    cases (decode_of_illFormed hwf).symm.trans hd
    exact ⟨rfl, (comboOpcode_opcodeOf_iff i).mpr hkind, congrArg BitVec.toNat h7⟩

/-- R82: a pair that decodes is not operand 7 of a combo opcode. -/
theorem not_combo_seven_of_decode {op : Nat} {i : Instr} (hd : decode op 7 = .ok i) : ¬ ComboOpcode op := by
  obtain ⟨rfl, h7, hwf⟩ := decode_eq_ok_iff.mp hd
  intro hcombo
  have hill : wellFormed i = false :=
    (wellFormed_eq_false_iff i).mpr ⟨(comboOpcode_opcodeOf_iff i).mp hcombo, BitVec.eq_of_toNat_eq h7⟩
  exact absurd (hwf.symm.trans hill) (by decide)

/-- R71: the opcode in bits 5–3 and the operand in bits 2–0 are the number `8 * op + x`. -/
theorem encodeWord_eq (i : Instr) : encodeWord i = BitVec.ofNat 6 (8 * opcodeOf i + (operandOf i).toNat) := by
  have hpair : ∀ (op : Fin 8) (x : Octal), BitVec.ofNat 3 op ++ x = BitVec.ofNat 6 (8 * op + x.toNat) := by decide
  exact hpair ⟨opcodeOf i, opcodeOf_lt i⟩ (operandOf i)

/-- R71: the elements of the opcode-table word `8 * op + x`. -/
theorem tableElements_of_octal {op x : Nat} (hop : op < 8) (hx : x < 8) : tableElements 8 (8 * op + x) = (op, x) := by
  simp only [tableElements, Prod.mk.injEq]
  omega

/-- R71: an opcode-table word decodes exactly when its two elements do. -/
theorem decodeTableWord_eq_some_iff {n w : Nat} {i : Instr} :
    decodeTableWord n w = some i ↔ decode (tableElements n w).1 (tableElements n w).2 = .ok i := by
  unfold decodeTableWord
  split <;> simp_all

/-- Settles O1: a well-formed instruction's own opcode and operand are the pair, and both are below 8, so the word holds
them apart. -/
theorem decodeOfEncodeIsTheInstruction : Obligations.DecodeOfEncodeIsTheInstruction := by
  intro i hwf
  have hdecode := decode_of_wellFormed hwf
  refine ⟨opcodeOf i, (operandOf i).toNat, rfl, encodeWord_eq i, hdecode, decodeTableWord_eq_some_iff.mpr ?_⟩
  rw [tableElements_of_octal (opcodeOf_lt i) (operandOf i).isLt]
  exact hdecode

/-- Settles O2: the elements are the opcode and the operand of what they decode to. -/
theorem decodedElementsAreTheEncoding : Obligations.DecodedElementsAreTheEncoding := by
  intro op x i hd
  obtain ⟨rfl, rfl, hwf⟩ := decode_eq_ok_iff.mp hd
  exact ⟨rfl, hwf, opcodeOf_lt i, (operandOf i).isLt⟩

/-- Settles O3: the two range checks come first; of two elements 0–7 only operand 7 of a combo opcode is refused, and any
others are the opcode and the operand of what they decode to. -/
theorem illegalPairsAndTheirFaults : Obligations.IllegalPairsAndTheirFaults := by
  intro op x
  by_cases hop : 7 < op
  · rw [if_pos hop, decode_of_opcode_above hop]
  by_cases hx : 7 < x
  · rw [if_neg hop, if_pos hx, decode_of_operand_above (by omega) hx]
  rw [if_neg hop, if_neg hx]
  cases hd : decode op x with
  | error f =>
    obtain ⟨rfl, hcombo, rfl⟩ := decode_error_of_octal (by omega) (by omega) hd
    exact (if_pos ⟨hcombo, rfl⟩).symm
  | ok i =>
    rw [if_neg]
    · obtain ⟨rfl, rfl, -⟩ := decode_eq_ok_iff.mp hd
      cases i <;> simp [opcodeOf, operandOf]
    · rintro ⟨hcombo, rfl⟩
      exact not_combo_seven_of_decode hd hcombo

/-- Settles O4: each word is evaluated by the decoder. -/
theorem tableWordsDecode : Obligations.TableWordsDecode := by
  unfold Obligations.TableWordsDecode
  decide

end Sys2Proof

/-! ## The check of a LOAD and the listing of a program (R84–R86, R90, R91) -/

namespace Sys2Proof

open Machine

/-- R70, R84: the program has the elements `op` and `x` at the indices `j` and `j + 1`. -/
def PairAt (prog : List Nat) (j op x : Nat) : Prop := prog[j]? = some op ∧ prog[j + 1]? = some x

/-- A pair lies within the program. -/
theorem PairAt.lt_length {prog : List Nat} {j op x : Nat} (h : PairAt prog j op x) : j + 1 < prog.length := by
  obtain ⟨-, h1⟩ := h
  exact (List.getElem?_eq_some_iff.mp h1).1

/-- No two pairs stand at one index. -/
theorem PairAt.unique {prog : List Nat} {j op x op' x' : Nat} (h : PairAt prog j op x) (h' : PairAt prog j op' x') :
    op' = op ∧ x' = x := by
  obtain ⟨h0, h1⟩ := h
  obtain ⟨h0', h1'⟩ := h'
  exact ⟨Option.some.inj (h0'.symm.trans h0), Option.some.inj (h1'.symm.trans h1)⟩

/-- R84: `op`, `x` is the listed pair at `j`: it stands there, and `j` is even. -/
def ListedPair (prog : List Nat) (j op x : Nat) : Prop := j % 2 = 0 ∧ PairAt prog j op x

/-- Every listed pair before index `n` decodes. -/
def PairsDecodeBefore (prog : List Nat) (n : Nat) : Prop :=
  ∀ j op x, j < n → ListedPair prog j op x → ∃ i, decode op x = .ok i

/-- Every listed pair decodes. -/
def PairsDecode (prog : List Nat) : Prop := ∀ j op x, ListedPair prog j op x → ∃ i, decode op x = .ok i

/-- R84: the listed pairs are the first two elements and, two indices later, those of the rest. -/
theorem listedPair_cons_cons {a b : Nat} {rest : List Nat} {j op x : Nat} :
    ListedPair (a :: b :: rest) j op x ↔
      (j = 0 ∧ op = a ∧ x = b) ∨ ∃ n, j = n + 2 ∧ ListedPair rest n op x := by
  match j with
  | 0 => simp [ListedPair, PairAt, eq_comm]
  | 1 => simp [ListedPair]
  | n + 2 => simp [ListedPair, PairAt]

/-- R85: everything the check of the listed pairs can report: nothing, where all decode, or the first one that is
refused. -/
theorem checkPairs_cases (k : Nat) (prog : List Nat) :
    (checkPairs k prog = none ∧ PairsDecode prog) ∨
    (∃ f j op x, checkPairs k prog = some (.illegalPair f, k + j) ∧ ListedPair prog j op x ∧
      decode op x = .error f ∧ PairsDecodeBefore prog j) := by
  match prog with
  | [] | [_] => exact .inl ⟨by simp [checkPairs], fun _ _ _ ⟨_, h⟩ => by simpa using h.lt_length⟩
  | op :: x :: rest =>
    cases hd : decode op x with
    | error f =>
      exact .inr ⟨f, 0, op, x, checkPairs_illegal hd, listedPair_cons_cons.mpr (.inl ⟨rfl, rfl, rfl⟩), hd,
        fun _ _ _ h => absurd h (Nat.not_lt_zero _)⟩
    | ok i =>
      rw [checkPairs_legal hd]
      obtain ⟨hnone, hall⟩ | ⟨f, j, op', x', hsome, hpair, hd', hbefore⟩ := checkPairs_cases (k + 2) rest
      · refine .inl ⟨hnone, fun j' op' x' h => ?_⟩
        obtain ⟨-, rfl, rfl⟩ | ⟨n, -, hrest⟩ := listedPair_cons_cons.mp h
        · exact ⟨i, hd⟩
        · exact hall n op' x' hrest
      · refine .inr ⟨f, j + 2, op', x', ?_, listedPair_cons_cons.mpr (.inr ⟨j, rfl, hpair⟩), hd', ?_⟩
        · rw [hsome, Nat.add_assoc, Nat.add_comm 2 j]
        · intro j'' op'' x'' hlt h
          obtain ⟨-, rfl, rfl⟩ | ⟨n, rfl, hrest⟩ := listedPair_cons_cons.mp h
          · exact ⟨i, hd⟩
          · exact hbefore n op'' x'' (by omega) hrest

/-- R85: the check of the listed pairs passes exactly when all of them decode. -/
theorem checkPairs_eq_none_iff (k : Nat) (prog : List Nat) : checkPairs k prog = none ↔ PairsDecode prog := by
  obtain ⟨hnone, hall⟩ | ⟨f, j, op, x, hsome, hpair, hd, -⟩ := checkPairs_cases k prog
  · exact iff_of_true hnone hall
  · refine iff_of_false (by simp [hsome]) fun hall => ?_
    obtain ⟨i, hok⟩ := hall j op x hpair
    cases hok.symm.trans hd

/-- R86: the check of the listed pairs reports `f` at `j` exactly when the pair at `j` is refused with `f` and every
earlier one decodes. -/
theorem checkPairs_eq_some_iff (prog : List Nat) (f : DecodeFault) (j : Nat) :
    checkPairs 0 prog = some (.illegalPair f, j) ↔
      (∃ op x, ListedPair prog j op x ∧ decode op x = .error f) ∧ PairsDecodeBefore prog j := by
  constructor
  · intro h
    obtain ⟨hnone, -⟩ | ⟨f', j', op, x, hsome, hpair, hd, hbefore⟩ := checkPairs_cases 0 prog
    · cases hnone.symm.trans h
    · obtain ⟨rfl, rfl⟩ : f' = f ∧ j' = j := by simpa using hsome.symm.trans h
      exact ⟨⟨op, x, hpair, hd⟩, hbefore⟩
  · rintro ⟨⟨op, x, hpair, hd⟩, hbefore⟩
    obtain ⟨-, hall⟩ | ⟨f', j', op', x', hsome, hpair', hd', hbefore'⟩ := checkPairs_cases 0 prog
    · obtain ⟨i, hok⟩ := hall j op x hpair
      cases hok.symm.trans hd
    · obtain hlt | rfl | hgt := Nat.lt_trichotomy j' j
      · obtain ⟨i, hok⟩ := hbefore j' op' x' hlt hpair'
        cases hok.symm.trans hd'
      · obtain ⟨rfl, rfl⟩ := hpair.2.unique hpair'.2
        cases hd'.symm.trans hd
        rw [hsome, Nat.zero_add]
      · obtain ⟨i, hok⟩ := hbefore' j op x hgt hpair
        cases hok.symm.trans hd

/-- R86: a program of even length is checked pair by pair. -/
theorem loadCheck_of_even {prog : List Nat} (h : prog.length % 2 = 0) : loadCheck prog = checkPairs 0 prog := if_pos h

/-- R86: a program of odd length is malformed, and FAULT_AT is its length. -/
theorem loadCheck_of_odd {prog : List Nat} (h : prog.length % 2 = 1) :
    loadCheck prog = some (.malformedProgram, prog.length) := if_neg (by omega)

/-- R85, R86: a program passes exactly when its length is even and all its listed pairs decode. -/
theorem loadCheck_eq_none_iff (prog : List Nat) : loadCheck prog = none ↔ prog.length % 2 = 0 ∧ PairsDecode prog := by
  rw [loadCheck_eq_none, checkPairs_eq_none_iff]

/-- R86: a program is reported for the pair at `j` exactly when its length is even and that pair is the first one
refused. -/
theorem loadCheck_eq_illegalPair_iff (prog : List Nat) (f : DecodeFault) (j : Nat) :
    loadCheck prog = some (.illegalPair f, j) ↔ prog.length % 2 = 0 ∧
      (∃ op x, ListedPair prog j op x ∧ decode op x = .error f) ∧ PairsDecodeBefore prog j := by
  obtain heven | hodd := Nat.mod_two_eq_zero_or_one prog.length
  · rw [loadCheck_of_even heven, checkPairs_eq_some_iff]
    exact (and_iff_right heven).symm
  · simp [loadCheck_of_odd hodd, hodd]

/-- R85: in a program that passes the check every element is 0–7. -/
theorem octal_of_loadCheck {prog : List Nat} (h : loadCheck prog = none) {n e : Nat} (hn : prog[n]? = some e) :
    e < 8 := by
  obtain ⟨heven, hall⟩ := (loadCheck_eq_none_iff prog).mp h
  have hlt : n < prog.length := (List.getElem?_eq_some_iff.mp hn).1
  obtain hmod | hmod := Nat.mod_two_eq_zero_or_one n
  · have h1 : n + 1 < prog.length := by omega
    obtain ⟨i, hd⟩ := hall n e _ ⟨hmod, hn, List.getElem?_eq_getElem h1⟩
    obtain ⟨-, -, hop, -⟩ := decodedElementsAreTheEncoding _ _ _ hd
    exact hop
  · obtain ⟨m, rfl⟩ : ∃ m, n = m + 1 := ⟨n - 1, by omega⟩
    have h0 : m < prog.length := by omega
    obtain ⟨i, hd⟩ := hall m _ e ⟨by omega, List.getElem?_eq_getElem h0, hn⟩
    obtain ⟨-, -, -, hx⟩ := decodedElementsAreTheEncoding _ _ _ hd
    exact hx

/-- Settles O6: an odd length is reported first; at an even one the check of the listed pairs decides. -/
theorem loadCheckReportsTheFirstFault : Obligations.LoadCheckReportsTheFirstFault := by
  intro prog
  refine ⟨loadCheck_of_odd, fun f k => ?_, ?_⟩
  · rw [loadCheck_eq_illegalPair_iff]
    constructor
    · rintro ⟨heven, ⟨op, x, ⟨hk, h0, h1⟩, hd⟩, hbefore⟩
      exact ⟨heven, hk, ⟨op, x, h0, h1, hd⟩, fun j op x hlt hj h0 h1 => hbefore j op x hlt ⟨hj, h0, h1⟩⟩
    · rintro ⟨heven, hk, ⟨op, x, h0, h1, hd⟩, hbefore⟩
      exact ⟨heven, ⟨op, x, ⟨hk, h0, h1⟩, hd⟩, fun j op x hlt ⟨hj, h0, h1⟩ => hbefore j op x hlt hj h0 h1⟩
  · rw [loadCheck_eq_none_iff]
    simp only [PairsDecode, ListedPair, PairAt, and_imp]

/-- Settles O7: each element belongs to a listed pair, and that pair decodes. -/
theorem checkedProgramHasOctalElements : Obligations.CheckedProgramHasOctalElements := by
  intro prog hcheck
  constructor
  · intro e he
    obtain ⟨n, hn⟩ := List.mem_iff_getElem?.mp he
    exact Nat.le_of_lt_succ (octal_of_loadCheck hcheck hn)
  · intro k op hk h0 hcombo h1
    obtain ⟨-, hall⟩ := (loadCheck_eq_none_iff prog).mp hcheck
    obtain ⟨i, hd⟩ := hall k op 7 ⟨hk, h0, h1⟩
    exact not_combo_seven_of_decode hd hcombo

/-- R90: the assembly of a list of instructions puts the first one's two elements in front. -/
theorem assemble_cons (i : Instr) (is : List Instr) :
    assemble (i :: is) = opcodeOf i :: (operandOf i).toNat :: assemble is := rfl

/-- R91: disassembly of a listing whose first pair decodes. -/
theorem disassemble_of_decode {op x : Nat} {i : Instr} (hd : decode op x = .ok i) (rest : List Nat) :
    disassemble (op :: x :: rest) = (disassemble rest).map (i :: ·) := by
  simp only [disassemble, hd]
  cases disassemble rest <;> rfl

/-- R91: disassembly of a listing whose first pair is refused. -/
theorem disassemble_of_decode_error {op x : Nat} {f : DecodeFault} (hd : decode op x = .error f) (rest : List Nat) :
    disassemble (op :: x :: rest) = none := by
  simp only [disassemble, hd]

/-- R90, R91: disassembly gives a list of instructions exactly when they are well formed and assemble to the program. -/
theorem disassemble_eq_some_iff (prog : List Nat) (is : List Instr) :
    disassemble prog = some is ↔ (∀ i ∈ is, wellFormed i = true) ∧ assemble is = prog := by
  constructor
  · intro h
    match prog with
    | [] =>
      cases h
      exact ⟨by simp, rfl⟩
    | [_] => cases h
    | op :: x :: rest =>
      cases hd : decode op x with
      | error f => cases (disassemble_of_decode_error hd rest).symm.trans h
      | ok i =>
        obtain ⟨js, hrest, rfl⟩ := Option.map_eq_some_iff.mp ((disassemble_of_decode hd rest).symm.trans h)
        obtain ⟨hall, rfl⟩ := (disassemble_eq_some_iff rest js).mp hrest
        obtain ⟨rfl, rfl, hwf⟩ := decode_eq_ok_iff.mp hd
        exact ⟨List.forall_mem_cons.mpr ⟨hwf, hall⟩, assemble_cons i js⟩
  · rintro ⟨hall, rfl⟩
    induction is with
    | nil => rfl
    | cons i is ih =>
      obtain ⟨hwf, hrest⟩ := List.forall_mem_cons.mp hall
      rw [assemble_cons, disassemble_of_decode (decode_of_wellFormed hwf), ih hrest, Option.map_some]

/-- R85, R91: an even number of elements whose pairs pass the check is exactly a program with a disassembly. -/
theorem checkPairs_eq_none_iff_disassemble (k : Nat) (prog : List Nat) :
    prog.length % 2 = 0 ∧ checkPairs k prog = none ↔ ∃ is, disassemble prog = some is := by
  match prog with
  | [] => exact iff_of_true ⟨rfl, rfl⟩ ⟨[], rfl⟩
  | [_] => exact iff_of_false (fun h => nomatch h.1) fun ⟨_, h⟩ => nomatch h
  | op :: x :: rest =>
    cases hd : decode op x with
    | error f => simp [checkPairs_illegal hd, disassemble_of_decode_error hd]
    | ok i =>
      have hlength : (op :: x :: rest).length % 2 = rest.length % 2 := Nat.add_mod_right rest.length 2
      rw [hlength, checkPairs_legal hd, checkPairs_eq_none_iff_disassemble (k + 2) rest, disassemble_of_decode hd]
      simp

/-- R85, R91: a program passes the LOAD check exactly when it has a disassembly. -/
theorem loadCheck_eq_none_iff_disassemble (prog : List Nat) :
    loadCheck prog = none ↔ ∃ is, disassemble prog = some is := by
  rw [loadCheck_eq_none, checkPairs_eq_none_iff_disassemble]

/-- Settles O5: passing the check, having a disassembly and being an assembly of well-formed instructions are one. -/
theorem assemblyAndLoadCheckAgree : Obligations.AssemblyAndLoadCheckAgree := by
  constructor
  · intro is hall
    have hdis := (disassemble_eq_some_iff _ is).mpr ⟨hall, rfl⟩
    exact ⟨(loadCheck_eq_none_iff_disassemble _).mpr ⟨is, hdis⟩, hdis⟩
  · intro prog
    simp only [loadCheck_eq_none_iff_disassemble, disassemble_eq_some_iff]

end Sys2Proof

/-! ## Laws of the shift and of the bitwise family (R123, R130–R133) -/

namespace Sys2Proof.Machine

/-- R123: a shift gives 0 exactly when the value is below the power of two it divides by. -/
theorem shiftRight_eq_zero_iff (a k : Word) : shiftRight a k = 0 ↔ a.toNat < 2 ^ k.toNat := by
  rw [← BitVec.toNat_inj, shiftRight_toNat]
  exact Nat.div_eq_zero_iff_lt (by positivity)

/-- Settles O14: each law is one of the floor of the quotient. -/
theorem shiftFamilyLaws : Obligations.ShiftFamilyLaws := by
  intro a k
  refine ⟨shiftRight_eq_zero_iff a k, ?_, ?_, ?_, ?_, ?_⟩
  · rw [shiftRight_toNat]
    exact Nat.div_le_self _ _
  · have h8 : 2 ^ (3 : Word).toNat = 8 := by decide
    rw [shiftRight_toNat, h8]
    omega
  · intro hk
    exact (shiftRight_eq_zero_iff a k).mpr (a.isLt.trans_le (Nat.pow_le_pow_right (by decide) hk))
  · exact (shiftRight_eq_zero_iff a a).mpr Nat.lt_two_pow_self
  · apply BitVec.eq_of_toNat_eq
    have h1 : 2 ^ (0 : Word).toNat = 1 := by decide
    rw [shiftRight_toNat, h1, Nat.div_one]

/-- R130: the bits of a word from 3 up are those of its xor with a literal. -/
theorem xor_literalWord_div_eight (b : Word) (x : Octal) : (b ^^^ literalWord x).toNat / 8 = b.toNat / 8 := by
  have hx : (literalWord x).toNat < 2 ^ 3 := (zext_toNat x).trans_lt x.isLt
  rw [BitVec.toNat_xor, ← Nat.shiftRight_eq_div_pow _ 3, ← Nat.shiftRight_eq_div_pow _ 3, Nat.shiftRight_xor_distrib,
    Nat.shiftRight_eq_zero _ _ hx, Nat.xor_zero]

/-- Settles O18: each law is one of the value written back to B. -/
theorem bitwiseFamilyLaws : Obligations.BitwiseFamilyLaws := by
  intro x s t u
  refine ⟨?_, ?_, ?_, ?_⟩
  · intro ht hu
    cases (exec_bxl x s).symm.trans ht
    cases (exec_bxl x _).symm.trans hu
    simp
  · intro ht
    cases (exec_bxl x s).symm.trans ht
    exact xor_literalWord_div_eight s.b x
  · intro hx ht
    obtain ⟨k, -, hexec⟩ := exec_bst_of_legal hx s
    cases hexec.symm.trans ht
    rw [writeBack_b, zext_toNat]
    exact Nat.le_of_lt_succ (mod8 k).isLt
  · intro ht
    cases (exec_bxc x s).symm.trans ht
    constructor
    · intro hbc
      simp [hbc]
    · intro hc
      simp [hc]

end Sys2Proof.Machine

/-! ## What an instruction can answer, and what it leaves as it is (R21, R75, R107) -/

namespace Sys2Proof.Machine

/-- R75: with a value for its operand, an instruction of combo kind commits the effect of that value. -/
theorem withCombo_of_some {x : Octal} {s : State} {k : Word} (hk : combo x s = some k) (g : Word → Effect) :
    withCombo x s g = commit (g k) s := by
  simp only [withCombo, hk]

/-- R105: an instruction's execution is the commit of its effect. -/
theorem Executes.exec_eq {s : State} {i : Instr} {e : Effect} (h : Executes s i e) : exec i s = commit e s := by
  cases h with
  | adv hk | bdv hk | cdv hk | bst hk | out hk => exact withCombo_of_some hk _
  | bxl | bxc => rfl
  | jump ha => exact (exec_jnz_of_a_ne_zero _ ha).trans (commit_noDigit rfl s).symm
  | fall ha => exact (exec_jnz_of_a_eq_zero _ ha).trans (commit_noDigit rfl s).symm

/-- R150: the only effect with a digit is that of an `out`. -/
theorem Executes.digit_of_ne_out {s : State} {i : Instr} {e : Effect} (h : Executes s i e) (hi : ∀ x, i ≠ .out x) :
    e.digit = none := by
  cases h with
  | out _ => exact absurd rfl (hi _)
  | _ => rfl

/-- R30: no room on the tape, as a bound. -/
theorem tapeHasRoom_eq_false_iff (s : State) :
    tapeHasRoom s = false ↔ ∃ cap, s.params.tapeCapacity = some cap ∧ cap ≤ s.tape.length := by
  unfold tapeHasRoom
  cases s.params.tapeCapacity <;> simp

/-- The state in which an `out` of the digit `d` leaves the core (R107, R150). -/
def afterOut (d : Octal) (s : State) : State := stopAfterOut (appendDigit d (writeBack (advance s) s))

/-- Everything an instruction can answer: InvalidOperand for an ill-formed term, the write-back of an effect without a
digit, and for an `out` the digit or, on a full tape, the overflow. -/
inductive ExecAnswer (s : State) : Instr → Result → Prop where
  | illFormed {i} (hill : wellFormed i = false) : ExecAnswer s i (.next (enterFault .invalidOperand s.pc s))
  | quiet {i e} (hi : ∀ x, i ≠ .out x) (he : Executes s i e) : ExecAnswer s i (.next (writeBack e s))
  | emit {x k} (hk : combo x s = some k) (hroom : tapeHasRoom s = true) :
      ExecAnswer s (.out x) (.next (afterOut (mod8 k) s))
  | overflow {x} (hx : x ≠ 7) (hroom : tapeHasRoom s = false) : ExecAnswer s (.out x) (.fault .tapeOverflow)

/-- R107, 92_eei_decisions.md D19: `out` on a full tape. -/
theorem exec_out_of_full {x : Octal} (hx : x ≠ 7) {s : State} (hroom : tapeHasRoom s = false) :
    exec (.out x) s = .fault .tapeOverflow := by
  obtain ⟨k, hk⟩ := combo_some s hx
  rw [(Executes.out hk).exec_eq]
  simp [commit, hroom]

/-- Every execution is one of `ExecAnswer`. -/
theorem exec_answer (i : Instr) (s : State) : ExecAnswer s i (exec i s) := by
  obtain ⟨e, he, hexec⟩ | ⟨hill, hexec⟩ := exec_cases i s
  · rw [hexec]
    by_cases hi : ∀ x, i ≠ .out x
    · rw [commit_noDigit (he.digit_of_ne_out hi)]
      exact .quiet hi he
    · push Not at hi
      obtain ⟨x, rfl⟩ := hi
      cases he with
      | out hk =>
        cases hroom : tapeHasRoom s with
        | true =>
          rw [commit_digit rfl hroom]
          exact .emit hk hroom
        | false =>
          have hx : x ≠ 7 := by simpa [comboLegal] using comboLegal_of_combo hk
          rw [← (Executes.out hk).exec_eq, exec_out_of_full hx hroom]
          exact .overflow hx hroom
  · rw [hexec]
    exact .illFormed hill

/-- An instruction's next state is one of `ExecAnswer`. -/
theorem exec_answer_next {i : Instr} {s t : State} (h : exec i s = .next t) : ExecAnswer s i (.next t) :=
  h ▸ exec_answer i s

section AfterOut

variable (d : Octal) (s : State)

@[simp] theorem afterOut_pc : (afterOut d s).pc = s.pc + 2 := by simp [afterOut, advance]
@[simp] theorem afterOut_tape : (afterOut d s).tape = s.tape ++ [d] := by simp [afterOut]
@[simp] theorem afterOut_prog : (afterOut d s).prog = s.prog := by simp [afterOut]
@[simp] theorem afterOut_mode : (afterOut d s).mode = s.mode := by simp [afterOut]
@[simp] theorem afterOut_fault : (afterOut d s).fault = s.fault := by simp [afterOut]
@[simp] theorem afterOut_faultAt : (afterOut d s).faultAt = s.faultAt := by simp [afterOut]
@[simp] theorem afterOut_held : (afterOut d s).held = s.held := by simp [afterOut]
@[simp] theorem afterOut_params : (afterOut d s).params = s.params := by simp [afterOut]

theorem readReg_afterOut (r : Reg) : readReg r (afterOut d s) = readReg r s := by
  cases r <;> simp [afterOut, readReg, advance]

variable {s}

theorem afterOut_status_of_full (h : s.mode = .full) : (afterOut d s).status = s.status := by
  rw [afterOut, stopAfterOut_full (by simpa using h), appendDigit_status, writeBack_status]

theorem afterOut_status_of_untilOut (h : s.mode = .untilOut) : (afterOut d s).status = .stopped := by
  rw [afterOut, stopAfterOut_untilOut (by simpa using h)]

end AfterOut

/-- R21: the effect of an instruction has the old value for every register that its row does not write. -/
theorem Executes.readReg_of_not_writes {s : State} {i : Instr} {e : Effect} (h : Executes s i e) {r : Reg}
    (hr : writes i ≠ some r) : readReg r (writeBack e s) = readReg r s := by
  cases r with
  | a =>
    cases h with
    | adv _ => exact absurd rfl hr
    | _ => rfl
  | b =>
    cases h with
    | bdv _ | bxl | bst _ | bxc => exact absurd rfl hr
    | _ => rfl
  | c =>
    cases h with
    | cdv _ => exact absurd rfl hr
    | _ => rfl

/-- Settles O21: of the answers of an instruction only the overflow is no next state. -/
theorem onlyAFullTapeStopsAnInstruction : Obligations.OnlyAFullTapeStopsAnInstruction := by
  intro i s
  refine ⟨fun r hr => ?_, fun f => ⟨fun hf => ?_, ?_⟩⟩
  · have hanswer : ExecAnswer s i (.refused r) := hr ▸ exec_answer i s
    cases hanswer
  · have hanswer : ExecAnswer s i (.fault f) := hf ▸ exec_answer i s
    cases hanswer with
    | @overflow x hx hroom =>
      obtain ⟨cap, hcap, hle⟩ := (tapeHasRoom_eq_false_iff s).mp hroom
      exact ⟨rfl, x, cap, rfl, hx, hcap, hle⟩
  · rintro ⟨rfl, x, cap, rfl, hx, hcap, hle⟩
    exact exec_out_of_full hx ((tapeHasRoom_eq_false_iff s).mpr ⟨cap, hcap, hle⟩)

/-- Settles O23: a fault entry, a write-back and an `out` each leave the rest of the state as it is. -/
theorem instructionWritesOnlyItsRow : Obligations.InstructionWritesOnlyItsRow := by
  intro i s t hexec
  cases exec_answer_next hexec with
  | illFormed hill =>
    have hwf : wellFormed i ≠ true := by simp [hill]
    exact ⟨fun r _ => by cases r <;> rfl, fun _ => rfl, rfl, rfl, rfl, rfl, fun h => absurd h hwf, fun h => absurd h hwf⟩
  | quiet hi he =>
    exact ⟨fun r hr => he.readReg_of_not_writes hr, fun _ => rfl, rfl, rfl, rfl, rfl, fun _ => ⟨rfl, rfl⟩,
      fun _ _ => rfl⟩
  | emit hk hroom =>
    refine ⟨fun r _ => readReg_afterOut _ s r, fun hi => absurd rfl (hi _), ?_⟩
    simp

/-- R72: a well-formed instruction has a next state, an `out` if the tape has room. -/
theorem exec_completes {i : Instr} {s : State} (hwf : wellFormed i = true)
    (hroom : (∀ x, i ≠ .out x) ∨ tapeHasRoom s = true) : ∃ t, exec i s = .next t := by
  have hanswer := exec_answer i s
  generalize exec i s = r at hanswer
  cases hanswer with
  | illFormed hill => exact absurd (hwf.symm.trans hill) (by decide)
  | quiet | emit => exact ⟨_, rfl⟩
  | overflow _ hfull =>
    obtain hi | hroom := hroom
    · exact absurd rfl (hi _)
    · cases hroom.symm.trans hfull

/-- R150: the next state of a well-formed `out`. -/
theorem exec_out_eq_next {x : Octal} {s t : State} (hwf : wellFormed (.out x) = true)
    (hexec : exec (.out x) s = .next t) : ∃ k, combo x s = some k ∧ t = afterOut (mod8 k) s := by
  cases exec_answer_next hexec with
  | illFormed hill => exact absurd (hwf.symm.trans hill) (by decide)
  | quiet hi _ => exact absurd rfl (hi x)
  | emit hk _ => exact ⟨_, hk, rfl⟩

/-- Settles O53: there is a next state, and what it keeps is what any next state keeps. -/
theorem everyWellFormedInstructionCompletes : Obligations.EveryWellFormedInstructionCompletes := by
  intro i s hwf hroom
  obtain ⟨t, hexec⟩ := exec_completes hwf (hroom.imp_right (tapeHasRoom_iff s).mpr)
  obtain ⟨hjump, hfall, hadvance⟩ := pcAdvancesByTwoExceptJnz i s t hwf hexec
  obtain ⟨hregs, htape, hprog, hmode, hparams, hheld, hfault, hstatus⟩ := instructionWritesOnlyItsRow i s t hexec
  obtain ⟨hfault, hfaultAt⟩ := hfault hwf
  refine ⟨t, hexec, hjump, fun hzero => ?_, hregs, fun hi => ⟨htape hi, hstatus hwf hi⟩, ?_, hprog, hmode, hfault,
    hfaultAt, hheld, hparams⟩
  · by_cases hi : ∀ x, i ≠ .jnz x
    · exact hadvance hi
    · push Not at hi
      obtain ⟨x, hi⟩ := hi
      exact hfall x hi (hzero x hi)
  · rintro x rfl
    obtain ⟨k, -, rfl⟩ := exec_out_eq_next hwf hexec
    exact ⟨⟨mod8 k, afterOut_tape _ s⟩, afterOut_status_of_full _, afterOut_status_of_untilOut _⟩

end Sys2Proof.Machine

/-! ## A register that is not read has no influence (R21) -/

namespace Sys2Proof.Machine

/-- The effect with another new value for one register. -/
def Effect.setReg (r : Reg) (v : Word) (e : Effect) : Effect :=
  match r with
  | .a => { e with a := v }
  | .b => { e with b := v }
  | .c => { e with c := v }

/-- R106: what a write-back leaves does not depend on the registers before it. -/
theorem writeBack_writeReg (e : Effect) (r : Reg) (v : Word) (s : State) :
    writeBack e (writeReg r v s) = writeBack e s := by
  cases r <;> rfl

/-- R106: a write-back of the changed effect is the write-back with the register changed. -/
theorem writeBack_setReg (e : Effect) (r : Reg) (v : Word) (s : State) :
    writeBack (e.setReg r v) s = writeReg r v (writeBack e s) := by
  cases r <;> rfl

theorem Effect.setReg_digit (e : Effect) (r : Reg) (v : Word) : (e.setReg r v).digit = e.digit := by
  cases r <;> rfl

/-- R107: a digit and the end of a run leave the registers alone. -/
theorem writeReg_stopAfterOut_appendDigit (r : Reg) (v : Word) (d : Octal) (s : State) :
    stopAfterOut (appendDigit d (writeReg r v s)) = writeReg r v (stopAfterOut (appendDigit d s)) := by
  cases hm : s.mode <;> cases r <;> simp [stopAfterOut, appendDigit, writeReg, hm]

theorem tapeHasRoom_writeReg (r : Reg) (v : Word) (s : State) : tapeHasRoom (writeReg r v s) = tapeHasRoom s := by
  simp [tapeHasRoom]

/-- R106: a commit overwrites every register. -/
theorem commit_writeReg (e : Effect) (r : Reg) (v : Word) (s : State) : commit e (writeReg r v s) = commit e s := by
  simp only [commit, writeBack_writeReg, tapeHasRoom_writeReg]

/-- R106: a commit of the changed effect is the commit with the register changed. -/
theorem commit_setReg (e : Effect) (r : Reg) (v : Word) (s : State) :
    commit (e.setReg r v) s = onNext (writeReg r v) (commit e s) := by
  have hdigit : (e.setReg r v).digit = e.digit := e.setReg_digit r v
  cases hd : e.digit with
  | none => rw [commit_noDigit (hdigit.trans hd), commit_noDigit hd, writeBack_setReg, onNext]
  | some d =>
    cases hroom : tapeHasRoom s with
    | true =>
      rw [commit_digit (hdigit.trans hd) hroom, commit_digit hd hroom, writeBack_setReg,
        writeReg_stopAfterOut_appendDigit, onNext]
    | false => simp [commit, hdigit, hd, hroom, onNext]

/-- R75: a combo operand that does not select the register has the same value whatever stands in it. -/
theorem combo_writeReg {x : Octal} {r : Reg} (hr : comboReads x r = false) (v : Word) (s : State) :
    combo x (writeReg r v s) = combo x s := by
  have hsource : comboSource x ≠ some (.register r) := by simpa [comboReads] using hr
  unfold combo
  cases hx : comboSource x with
  | none => rfl
  | some src =>
    cases src with
    | literal n => rfl
    | register q =>
      have hq : q ≠ r := by
        rintro rfl
        exact hsource hx
      exact congrArg some (readReg_writeReg_other hq v s)

/-- R21: a register that a shift does not read is not A, and its combo operand has the same value whatever stands
there. -/
theorem combo_writeReg_of_shift {x : Octal} {r : Reg} {s : State} {k : Word} (hr : (r == .a || comboReads x r) = false)
    (hk : combo x s = some k) (v : Word) : r ≠ .a ∧ combo x (writeReg r v s) = some k := by
  obtain ⟨hra, hcombo⟩ := Bool.or_eq_false_iff.mp hr
  exact ⟨by simpa using hra, (combo_writeReg hcombo v s).trans hk⟩

/-- R21: with another value in a register that it does not read, an instruction has the same effect, but that the value
stays there unless the instruction writes the register. -/
theorem Executes.writeReg {s : State} {i : Instr} {e : Effect} (h : Executes s i e) {r : Reg}
    (hr : reads i r = false) (v : Word) :
    Executes (writeReg r v s) i (if writes i = some r then e else e.setReg r v) := by
  cases h with
  | adv hk =>
    obtain ⟨hra, hk⟩ := combo_writeReg_of_shift hr hk v
    cases r with
    | a => exact absurd rfl hra
    | b | c => exact .adv hk
  | bdv hk =>
    obtain ⟨hra, hk⟩ := combo_writeReg_of_shift hr hk v
    cases r with
    | a => exact absurd rfl hra
    | b | c => exact .bdv hk
  | cdv hk =>
    obtain ⟨hra, hk⟩ := combo_writeReg_of_shift hr hk v
    cases r with
    | a => exact absurd rfl hra
    | b | c => exact .cdv hk
  | bst hk =>
    rw [← combo_writeReg hr v] at hk
    cases r with
    | a | b | c => exact .bst hk
  | out hk =>
    rw [← combo_writeReg hr v] at hk
    cases r with
    | a | b | c => exact .out hk
  | bxl =>
    cases r with
    | b => cases hr
    | a | c => exact .bxl
  | bxc =>
    cases r with
    | b | c => cases hr
    | a => exact .bxc
  | jump ha =>
    cases r with
    | a => cases hr
    | b | c => exact .jump ha
  | fall ha =>
    cases r with
    | a => cases hr
    | b | c => exact .fall ha

/-- Settles O24: both executions commit an effect, and the two effects differ at most in the register. -/
theorem unreadRegisterHasNoInfluence : Obligations.UnreadRegisterHasNoInfluence := by
  intro i r v s hwf hr
  obtain ⟨e, he, hexec⟩ := exec_of_wellFormed hwf s
  rw [(he.writeReg hr v).exec_eq, commit_writeReg, hexec]
  by_cases hw : writes i = some r
  · simp only [if_pos hw]
    cases commit e s <;> rfl
  · simp only [if_neg hw, commit_setReg]

end Sys2Proof.Machine

/-! ## What a step can do (R100–R107) -/

namespace Sys2Proof.Machine

/-- Everything that leads from a state to the next one: nothing outside RUNNING, the halt, a decoder fault, a
well-formed instruction other than `out`, and an `out`. -/
inductive Moves (s : State) : State → Prop where
  | idle (hs : s.status ≠ .running) : Moves s s
  | halt (hs : s.status = .running) (hend : s.prog.length ≤ s.pc + 1) : Moves s (enterHalt s)
  | illegal {op x f} (hs : s.status = .running) (hpair : PairAt s.prog s.pc op x) (hd : decode op x = .error f) :
      Moves s (enterFault (decodeFaultCode f) s.pc s)
  | quiet {op x i e} (hs : s.status = .running) (hpair : PairAt s.prog s.pc op x) (hd : decode op x = .ok i)
      (hi : ∀ y, i ≠ .out y) (he : Executes s i e) : Moves s (writeBack e s)
  | emit {op x y k} (hs : s.status = .running) (hpair : PairAt s.prog s.pc op x) (hd : decode op x = .ok (.out y))
      (hk : combo y s = some k) (hroom : tapeHasRoom s = true) : Moves s (afterOut (mod8 k) s)

/-- Every next state of a step is one of `Moves`. -/
theorem moves_of_step {s t : State} (h : step s = .next t) : Moves s t := by
  obtain ⟨hs, hstep⟩ | ⟨hs, hend, hstep⟩ | ⟨op, x, hs, h0, h1, ⟨i, hd, hstep⟩ | ⟨f, hd, hstep⟩⟩ := step_cases s
  · cases hstep.symm.trans h
    exact .idle hs
  · cases hstep.symm.trans h
    exact .halt hs hend
  · cases exec_answer_next (hstep.symm.trans h) with
    | illFormed hill =>
      obtain ⟨-, -, hwf⟩ := decode_eq_ok_iff.mp hd
      exact absurd (hwf.symm.trans hill) (by decide)
    | quiet hi he => exact .quiet hs ⟨h0, h1⟩ hd hi he
    | emit hk hroom => exact .emit hs ⟨h0, h1⟩ hd hk hroom
  · cases hstep.symm.trans h
    exact .illegal hs ⟨h0, h1⟩ hd

/-- R105, R140: the effect of an instruction advances `pc`, or it is that of a taken `jnz`. -/
theorem Executes.pc_cases {s : State} {i : Instr} {e : Effect} (h : Executes s i e) :
    e.pc = s.pc + 2 ∨ (∃ x, i = .jnz x ∧ s.a ≠ 0 ∧ e.pc = x.toNat) := by
  cases h with
  | jump ha => exact .inr ⟨_, rfl, ha, rfl⟩
  | _ => exact .inl rfl

/-- R109: an `out` leaves a running core RUNNING in mode FULL and STOPPED in mode UNTIL_OUT. -/
theorem afterOut_status_cases {s : State} (hs : s.status = .running) (d : Octal) :
    (s.mode = .full ∧ (afterOut d s).status = .running) ∨ (s.mode = .untilOut ∧ (afterOut d s).status = .stopped) := by
  cases hm : s.mode with
  | full => exact .inl ⟨rfl, (afterOut_status_of_full d hm).trans hs⟩
  | untilOut => exact .inr ⟨rfl, afterOut_status_of_untilOut d hm⟩

/-- R165: a run enters FAULTED only by a decoder fault. -/
theorem step_faulted {s t : State} (hs : s.status = .running) (hstep : step s = .next t) (ht : t.status = .faulted) :
    ∃ op x f, PairAt s.prog s.pc op x ∧ decode op x = .error f ∧ t = enterFault (decodeFaultCode f) s.pc s := by
  cases moves_of_step hstep with
  | idle hidle => exact absurd hs hidle
  | halt => cases ht
  | illegal _ hpair hd => exact ⟨_, _, _, hpair, hd, rfl⟩
  | quiet => cases hs.symm.trans ht
  | emit =>
    obtain ⟨-, h⟩ | ⟨-, h⟩ := afterOut_status_cases hs (mod8 _)
    · cases h.symm.trans ht
    · cases h.symm.trans ht

/-- Settles O29: it is what a step outside a run is. -/
theorem idleEngineHoldsItsState : Obligations.IdleEngineHoldsItsState := fun _ hs => step_of_not_running hs

/-- Settles O30: every step but an instruction's answers a next state, and an instruction's only stop is the overflow. -/
theorem everyStepHasANextState : Obligations.EveryStepHasANextState := by
  intro s
  have hstep : (∃ t, step s = .next t) ∨ ∃ i, step s = exec i s := by
    obtain ⟨-, h⟩ | ⟨-, -, h⟩ | ⟨_, _, -, -, -, ⟨i, -, h⟩ | ⟨f, -, h⟩⟩ := step_cases s
    · exact .inl ⟨_, h⟩
    · exact .inl ⟨_, h⟩
    · exact .inr ⟨i, h⟩
    · exact .inl ⟨_, h⟩
  obtain ⟨t, h⟩ | ⟨i, h⟩ := hstep
  · simp [h]
  · rw [h]
    obtain ⟨hrefused, hfault⟩ := onlyAFullTapeStopsAnInstruction i s
    have hfull : ∀ f, exec i s = .fault f → f = .tapeOverflow ∧ ∃ cap, s.params.tapeCapacity = some cap ∧
        cap ≤ s.tape.length := by
      intro f hf
      obtain ⟨hcode, -, cap, -, -, hcap⟩ := (hfault f).mp hf
      exact ⟨hcode, cap, hcap⟩
    refine ⟨hrefused, fun hunbounded => ?_, hfull⟩
    cases hr : exec i s with
    | next t => exact ⟨t, rfl⟩
    | refused r => exact absurd hr (hrefused r)
    | fault f =>
      obtain ⟨-, cap, hcap, -⟩ := hfull f hr
      cases hunbounded.symm.trans hcap

/-- R103: on a pair that decodes no fault is raised. -/
theorem not_illegal_of_decode_ok {prog : List Nat} {j op x : Nat} {i : Instr} (hpair : PairAt prog j op x)
    (hd : decode op x = .ok i) : ¬ ∃ op x f, prog[j]? = some op ∧ prog[j + 1]? = some x ∧ decode op x = .error f := by
  rintro ⟨op', x', f, h0, h1, hd'⟩
  obtain ⟨rfl, rfl⟩ := hpair.unique ⟨h0, h1⟩
  cases hd'.symm.trans hd

/-- Settles O31: each move leads to one status, and its conditions exclude those of the others. -/
theorem howARunEnds : Obligations.HowARunEnds := by
  intro s t hs hstep
  cases moves_of_step hstep with
  | idle hidle => exact absurd hs hidle
  | halt _ hend =>
    refine ⟨by simp, by simp, iff_of_true rfl hend, iff_of_false (by simp) ?_⟩
    rintro ⟨op, x, f, h0, h1, -⟩
    have hlt := PairAt.lt_length ⟨h0, h1⟩
    omega
  | illegal _ hpair hd =>
    have hlt := hpair.lt_length
    obtain ⟨h0, h1⟩ := hpair
    exact ⟨by simp, by simp, iff_of_false (by simp) (by omega), iff_of_true rfl ⟨_, _, _, h0, h1, hd⟩⟩
  | quiet _ hpair hd =>
    have hlt := hpair.lt_length
    have hlegal := not_illegal_of_decode_ok hpair hd
    exact ⟨by simp [hs], by simp [hs], iff_of_false (by simp [hs]) (by omega), iff_of_false (by simp [hs]) hlegal⟩
  | @emit _ _ _ k _ hpair hd =>
    have hlt := hpair.lt_length
    have hlegal := not_illegal_of_decode_ok hpair hd
    obtain ⟨hm, ht⟩ | ⟨hm, ht⟩ := afterOut_status_cases hs (mod8 k) <;>
      exact ⟨by simp [ht], by simp [ht, hm], iff_of_false (by simp [ht]) (by omega), iff_of_false (by simp [ht]) hlegal⟩

/-- Settles O32: a run enters FAULTED by a decoder fault, whose entry writes those three alone. -/
theorem executionFaultIsPrecise : Obligations.ExecutionFaultIsPrecise := by
  intro s t hs hstep ht
  obtain ⟨op, x, f, -, -, rfl⟩ := step_faulted hs hstep ht
  refine ⟨rfl, ?_⟩
  cases f with
  | invalidOpcode => exact .inl rfl
  | invalidOperand => exact .inr rfl

/-- Settles O33: a pair of octal elements is refused only for operand 7 of a combo opcode, and at an even index the check
has ruled that out. -/
theorem checkedProgramFaultsOnlyAtOddPc : Obligations.CheckedProgramFaultsOnlyAtOddPc := by
  intro s t hcheck hs hstep ht
  obtain ⟨op, x, f, ⟨h0, h1⟩, hd, rfl⟩ := step_faulted hs hstep ht
  obtain ⟨rfl, hcombo, rfl⟩ := decode_error_of_octal (octal_of_loadCheck hcheck h0) (octal_of_loadCheck hcheck h1) hd
  refine ⟨?_, rfl, h1, op, h0, hcombo⟩
  by_contra hodd
  obtain ⟨-, hall⟩ := (loadCheck_eq_none_iff s.prog).mp hcheck
  obtain ⟨i, hok⟩ := hall s.pc op 7 ⟨by omega, h0, h1⟩
  cases hok.symm.trans hd

/-- Settles O34: with a pair at `pc` there is room for an advance, and a target is at most 7. -/
theorem pcStaysWithinItsBound : Obligations.PcStaysWithinItsBound := by
  intro s t hbound hstep
  cases moves_of_step hstep with
  | idle | halt | illegal => exact hbound
  | quiet _ hpair _ _ he =>
    have hlt := hpair.lt_length
    rw [writeBack_pc, writeBack_prog]
    obtain hpc | ⟨x, -, -, hpc⟩ := he.pc_cases <;> omega
  | emit _ hpair =>
    have hlt := hpair.lt_length
    rw [afterOut_pc, afterOut_prog]
    omega

/-- Settles O35: an advance keeps `pc` even, so the step is a taken `jnz`, and what decodes to it is opcode 3 before its
target. -/
theorem onlyAnOddJumpMakesPcOdd : Obligations.OnlyAnOddJumpMakesPcOdd := by
  intro s t hs heven hstep hodd
  cases moves_of_step hstep with
  | idle | halt | illegal => exact absurd (heven.symm.trans hodd) (by decide)
  | quiet _ hpair hd _ he =>
    rw [writeBack_pc] at hodd
    obtain hpc | ⟨y, rfl, ha, hpc⟩ := he.pc_cases
    · omega
    · obtain ⟨h0, h1⟩ := hpair
      obtain ⟨rfl, rfl, -⟩ := decode_eq_ok_iff.mp hd
      exact ⟨ha, y.toNat, h0, h1, hpc ▸ hodd, hpc⟩
  | emit =>
    rw [afterOut_pc] at hodd
    omega

end Sys2Proof.Machine

/-! ## Any number of steps (R100, R110) -/

namespace Sys2Proof.Machine

/-- R100: a first step that leads to a state, then the others from there. -/
theorem steps_succ_of_next {s t : State} (h : step s = .next t) (k : Nat) : steps (k + 1) s = steps k t := by
  simp only [steps, h]

/-- R100: steps that lead to a state begin with one that does. -/
theorem steps_succ_eq_next {k : Nat} {s t : State} (h : steps (k + 1) s = .next t) :
    ∃ u, step s = .next u ∧ steps k u = .next t := by
  cases hstep : step s with
  | next u => exact ⟨u, rfl, (steps_succ_of_next hstep k).symm.trans h⟩
  | fault f => simp [steps, hstep] at h
  | refused r => simp [steps, hstep] at h

/-- A state that a step leads to itself stays for any number of steps. -/
theorem steps_of_fixed {s : State} (h : step s = .next s) (k : Nat) : steps k s = .next s := by
  induction k with
  | zero => rfl
  | succ k ih => rw [steps_succ_of_next h, ih]

/-- R32, R62: a step keeps PROG, MODE, the parameters and which state holds a value. -/
theorem step_keeps_program {s t : State} (h : step s = .next t) :
    t.prog = s.prog ∧ t.mode = s.mode ∧ t.params = s.params ∧ t.held = s.held := by
  cases moves_of_step h with
  | idle | halt | illegal | quiet => exact ⟨rfl, rfl, rfl, rfl⟩
  | emit => simp

/-- Settles O36, by induction on the number of steps. -/
theorem programIsImmutableDuringARun : Obligations.ProgramIsImmutableDuringARun := by
  intro k
  induction k with
  | zero =>
    intro s t h
    cases h
    exact ⟨rfl, rfl, rfl, rfl⟩
  | succ k ih =>
    intro s t h
    obtain ⟨u, hu, ht⟩ := steps_succ_eq_next h
    obtain ⟨hprog, hmode, hparams, hheld⟩ := step_keeps_program hu
    obtain ⟨hprog', hmode', hparams', hheld'⟩ := ih u t ht
    exact ⟨hprog'.trans hprog, hmode'.trans hmode, hparams'.trans hparams, hheld'.trans hheld⟩

/-- R31: a step that executes no `out` has no OUT event. -/
theorem outEvent_eq_none {s : State} (h : ∀ x, fetch s ≠ .run (.out x)) : outEvent s = none := by
  unfold outEvent
  split
  · rename_i x hx
    exact absurd hx (h x)
  · rfl

/-- R102, R103: what a running engine finds where a pair decodes. -/
theorem fetch_of_decode_ok {s : State} {op x : Nat} {i : Instr} (hs : s.status = .running)
    (hpair : PairAt s.prog s.pc op x) (hd : decode op x = .ok i) : fetch s = .run i := by
  have hlt := hpair.lt_length
  obtain ⟨h0, h1⟩ := hpair
  simp only [fetch, hs, fetchPair, if_neg (Nat.not_le.mpr hlt), progRead, h0, h1, hd]

/-- R102, R103: an instruction that the engine finds is what the pair at `pc` decodes to. -/
theorem decode_of_fetch {s : State} {i : Instr} (h : fetch s = .run i) :
    s.status = .running ∧ ∃ op x, PairAt s.prog s.pc op x ∧ decode op x = .ok i := by
  have hs : s.status = .running := by
    by_contra hs
    unfold fetch at h
    split at h
    · exact hs ‹_›
    · cases h
  have hfetch : fetchPair s = .run i := by simpa only [fetch, hs] using h
  refine ⟨hs, ?_⟩
  obtain ⟨-, he⟩ | ⟨op, x, h0, h1, ⟨j, hd, he⟩ | ⟨f, -, he⟩⟩ := fetchPair_cases s
  · cases he.symm.trans hfetch
  · cases he.symm.trans hfetch
    exact ⟨op, x, ⟨h0, h1⟩, hd⟩
  · cases he.symm.trans hfetch

/-- R31: the OUT event of a step is the digit that the step appends. -/
theorem step_tape {s t : State} (h : step s = .next t) : t.tape = s.tape ++ (outEvent s).toList := by
  have hsilent (ht : t.tape = s.tape) (hno : ∀ x, fetch s ≠ .run (.out x)) :
      t.tape = s.tape ++ (outEvent s).toList := by
    rw [outEvent_eq_none hno, ht, Option.toList_none, List.append_nil]
  cases moves_of_step h with
  | idle hs =>
    refine hsilent rfl fun x hx => ?_
    obtain ⟨hrun, -⟩ := decode_of_fetch hx
    exact hs hrun
  | halt hs hend =>
    refine hsilent rfl fun x hx => ?_
    obtain ⟨-, op, x, hpair, -⟩ := decode_of_fetch hx
    have hlt := hpair.lt_length
    omega
  | illegal hs hpair hd =>
    refine hsilent rfl fun x hx => ?_
    obtain ⟨-, op, x, hpair', hok⟩ := decode_of_fetch hx
    obtain ⟨rfl, rfl⟩ := hpair.unique hpair'
    cases hok.symm.trans hd
  | quiet hs hpair hd hi he =>
    refine hsilent rfl fun x hx => ?_
    cases (fetch_of_decode_ok hs hpair hd).symm.trans hx
    exact hi x rfl
  | emit hs hpair hd hk hroom =>
    rw [afterOut_tape]
    simp only [outEvent, fetch_of_decode_ok hs hpair hd, hroom, hk, if_true, Option.map_some, Option.toList_some]

/-- Settles O37, by induction on the number of steps. -/
theorem tapeIsTheOutEventsInOrder : Obligations.TapeIsTheOutEventsInOrder := by
  intro k
  induction k with
  | zero =>
    intro s t h
    cases h
    exact (List.append_nil _).symm
  | succ k ih =>
    intro s t h
    obtain ⟨u, hu, ht⟩ := steps_succ_eq_next h
    have hevents : outEvents (k + 1) s = (outEvent s).toList ++ outEvents k u := by simp only [outEvents, hu]
    rw [ih u t ht, step_tape hu, hevents, List.append_assoc]

/-- Settles O38: the pair decodes to the `jnz` to `pc` itself, which writes back the state it found. -/
theorem selfLoopNeverEnds : Obligations.SelfLoopNeverEnds := by
  intro s hs ha hpc h0 h1
  apply steps_of_fixed
  have htarget : (BitVec.ofNat 3 s.pc).toNat = s.pc := by
    rw [BitVec.toNat_ofNat]
    omega
  have hd : decode 3 s.pc = .ok (.jnz (BitVec.ofNat 3 s.pc)) := decode_eq_ok_iff.mpr ⟨rfl, htarget, rfl⟩
  rw [step_of_decode_ok hs h0 h1 hd, exec_jnz_of_a_ne_zero _ ha]
  simp only [writeBack, advance, literalTarget, htarget]

end Sys2Proof.Machine

/-! ## A sequence of UNTIL_OUT runs against one FULL run (R111) -/

namespace Sys2Proof.Machine

/-- R107: MODE has no part in an instruction's effect. -/
theorem Executes.fullView {s : State} {i : Instr} {e : Effect} (h : Executes s i e) : Executes (fullView s) i e := by
  cases h with
  | adv hk => exact .adv hk
  | bdv hk => exact .bdv hk
  | cdv hk => exact .cdv hk
  | bst hk => exact .bst hk
  | out hk => exact .out hk
  | bxl => exact .bxl
  | bxc => exact .bxc
  | jump ha => exact .jump ha
  | fall ha => exact .fall ha

/-- R42: a core that is not STOPPED is not resumed. -/
theorem resumeUntilOut_of_not_stopped {s : State} (h : s.status ≠ .stopped) : resumeUntilOut s = s := by
  unfold resumeUntilOut
  split
  · exact absurd ‹_› h
  · rfl

/-- R42, R111: after the host of UNTIL_OUT runs has acted, the core is not STOPPED. -/
theorem resumeUntilOut_not_stopped (s : State) : (resumeUntilOut s).status ≠ .stopped := by
  by_cases h : s.status = .stopped
  · simp [resumeUntilOut, hostRun, h]
  · rwa [resumeUntilOut_of_not_stopped h]

/-- R109, R111: the end of a run that an `out` makes is undone by resuming, so in mode FULL and in the run's own mode the
core goes on alike. -/
theorem stopAfterOut_fullView {s : State} (hs : s.status = .running) :
    stopAfterOut (fullView s) = fullView (resumeUntilOut (stopAfterOut s)) := by
  cases hm : s.mode with
  | full =>
    rw [stopAfterOut_full hm, resumeUntilOut_of_not_stopped (by simp [hs]), stopAfterOut_full rfl]
  | untilOut =>
    rw [stopAfterOut_full rfl, stopAfterOut_untilOut hm]
    simp only [fullView, resumeUntilOut, hostRun, startRun, hs]

/-- R107, R111: a commit in mode FULL is the commit in the run's own mode, resumed. -/
theorem commit_fullView (e : Effect) {s : State} (hs : s.status = .running) :
    commit e (fullView s) = onNext (fun t => fullView (resumeUntilOut t)) (commit e s) := by
  obtain ⟨hd, hcommit⟩ | ⟨d, hd, hroom, hcommit⟩ | ⟨d, hd, hroom, hcommit⟩ := commit_cases e s
  · rw [hcommit, commit_noDigit hd, onNext, resumeUntilOut_of_not_stopped (by simp [hs])]
    rfl
  · rw [hcommit, commit_digit (s := fullView s) hd hroom, onNext, ← stopAfterOut_fullView (by simpa using hs)]
    rfl
  · have hfull : tapeHasRoom (fullView s) = false := hroom
    rw [hcommit]
    simp [commit, hd, hfull, onNext]

/-- R107, R111: an instruction in mode FULL does what it does in the run's own mode, resumed. -/
theorem exec_fullView (i : Instr) {s : State} (hs : s.status = .running) :
    exec i (fullView s) = onNext (fun t => fullView (resumeUntilOut t)) (exec i s) := by
  obtain ⟨e, he, hexec⟩ | ⟨hill, hexec⟩ := exec_cases i s
  · rw [he.fullView.exec_eq, hexec, commit_fullView e hs]
  · rw [exec_of_illFormed hill, hexec, onNext, resumeUntilOut_of_not_stopped (by simp)]
    rfl

/-- R109, R111: outside STOPPED, a step in mode FULL is the step in the state's own mode, resumed. -/
theorem step_fullView {s : State} (hs : s.status ≠ .stopped) :
    step (fullView s) = onNext (fun t => fullView (resumeUntilOut t)) (step s) := by
  obtain ⟨hidle, hstep⟩ | ⟨hrun, hend, hstep⟩ | ⟨op, x, hrun, h0, h1, ⟨i, hd, hstep⟩ | ⟨f, hd, hstep⟩⟩ := step_cases s
  · rw [hstep, step_of_not_running (s := fullView s) hidle, onNext, resumeUntilOut_of_not_stopped hs]
  · rw [hstep, step_of_no_pair (s := fullView s) hrun hend, onNext, resumeUntilOut_of_not_stopped (by simp)]
    rfl
  · rw [hstep, step_of_decode_ok (s := fullView s) hrun h0 h1 hd, exec_fullView i hrun]
  · rw [hstep, step_of_decode_error (s := fullView s) hrun h0 h1 hd, onNext, resumeUntilOut_of_not_stopped (by simp)]
    rfl

/-- R111: the step counts of the two hosts agree from every state outside STOPPED. -/
theorem steps_fullView (k : Nat) {s : State} (hs : s.status ≠ .stopped) :
    steps k (fullView s) = onNext fullView (untilOutRuns k s) := by
  induction k generalizing s with
  | zero => rfl
  | succ k ih =>
    rw [steps, untilOutRuns, step_fullView hs]
    cases step s with
    | next t => exact ih (resumeUntilOut_not_stopped t)
    | fault f => rfl
    | refused r => rfl

/-- Settles O39: a running core is not STOPPED. -/
theorem untilOutRunsTakeTheStepsOfOneFullRun : Obligations.UntilOutRunsTakeTheStepsOfOneFullRun := by
  intro k s hs
  exact steps_fullView k (by simp [hs])

end Sys2Proof.Machine

/-! ## The host's commands and reads (R40–R46) -/

namespace Sys2Proof.Machine

/-- R42: RUN starts or resumes a core that is READY or STOPPED. -/
theorem hostRun_of_accepted {m : Mode} {s : State} (h : accepts (.run m) s = true) : hostRun m s = startRun m s := by
  obtain ⟨-, hrun⟩ | ⟨hready, hstopped, -⟩ := hostRun_cases m s
  · exact hrun
  · obtain hs | hs := (accepts_run_iff m s).mp h
    · exact absurd hs hready
    · exact absurd hs hstopped

/-- R45: LOAD is refused exactly while RUNNING. -/
theorem accepts_load_eq_false_iff (prog : List Nat) (a b c : Word) (s : State) :
    accepts (.load prog a b c) s = false ↔ s.status = .running := by
  simp [accepts]

/-- R45: RUN is refused in the other four statuses. -/
theorem accepts_run_eq_false_iff (m : Mode) (s : State) :
    accepts (.run m) s = false ↔
      s.status = .idle ∨ s.status = .running ∨ s.status = .halted ∨ s.status = .faulted := by
  cases hs : s.status <;> simp [accepts, hs]

/-- R45: a command that is not accepted changes nothing. -/
theorem hostCommand_of_not_accepted {cmd : Command} {s : State} (h : accepts cmd s = false) :
    hostCommand cmd s = .next s := by
  cases cmd with
  | load prog a b c => exact if_pos ((accepts_load_eq_false_iff prog a b c s).mp h)
  | run m => rw [hostCommand, hostRun_of_not_accepted h]

/-- R44: STOPPED in mode UNTIL_OUT gives the last digit of the tape. -/
theorem runResult_of_stopped {s : State} {before : List Octal} {d : Octal} (hs : s.status = .stopped)
    (hm : s.mode = .untilOut) (htape : s.tape = before ++ [d]) : runResult s = some (.digit d) := by
  simp [runResult, hs, hm, htape]

/-- Settles O43: after power-on no register can be read. -/
theorem resetValues : Obligations.ResetValues :=
  ⟨rfl, rfl, rfl, rfl, rfl, rfl, hostRead_unreadable (by decide) rfl, hostRead_unreadable (by decide) rfl,
    hostRead_unreadable (by decide) rfl⟩

/-- Settles O45: in READY and STOPPED a RUN is accepted, and an accepted RUN is `startRun`. -/
theorem runStartsOrResumes : Obligations.RunStartsOrResumes := by
  intro m s hs
  have haccepts : accepts (.run m) s = true := (accepts_run_iff m s).mpr hs
  exact ⟨congrArg _ (hostRun_of_accepted haccepts), haccepts⟩

/-- Settles O46: the refusals of RUN and of LOAD are read off STATUS. -/
theorem refusedCommandsChangeNothing : Obligations.RefusedCommandsChangeNothing := fun s =>
  ⟨fun _ h => hostCommand_of_not_accepted h, fun m => accepts_run_eq_false_iff m s,
    fun prog a b c => accepts_load_eq_false_iff prog a b c s⟩

/-- Settles O49: while RUNNING every read is refused; otherwise what the run state holds decides. -/
theorem readbackOutsideARun : Obligations.ReadbackOutsideARun := by
  intro s
  refine ⟨hostRead_running, fun hs hheld => ?_, fun hs hheld => ?_, fun hs hheld => ?_, fun hs => ?_⟩
  · have hread (item : ReadItem) : hostRead item s = .ok (itemValue item s) :=
      hostRead_readable hs (by rw [hheld]; rfl)
    exact ⟨hread .a, hread .b, hread .c, hread .pc, hread .tape⟩
  · have hrefused {item : ReadItem} (h : readable item .powerOn = false) :
        hostRead item s = .error .readHoldsNoValue :=
      hostRead_unreadable hs (hheld ▸ h)
    exact ⟨hrefused rfl, hrefused rfl, hrefused rfl, hrefused rfl, hostRead_readable hs (by rw [hheld]; rfl)⟩
  · have hrefused {item : ReadItem} (h : readable item .loadFailed = false) :
        hostRead item s = .error .readHoldsNoValue :=
      hostRead_unreadable hs (hheld ▸ h)
    exact ⟨hrefused rfl, hrefused rfl, hrefused rfl, hrefused rfl, hrefused rfl⟩
  · have hread {item : ReadItem} (h : ∀ held, readable item held = true) : hostRead item s = .ok (itemValue item s) :=
      hostRead_readable hs (h s.held)
    exact ⟨hread (by rintro (_ | _ | _) <;> rfl), hread (by rintro (_ | _ | _) <;> rfl),
      hread (by rintro (_ | _ | _) <;> rfl), hread (by rintro (_ | _ | _) <;> rfl)⟩

/-- Settles O50: the codes are read off their tables, and each STATUS comes back from its code. -/
theorem statusRegisterCodes : Obligations.StatusRegisterCodes := by
  refine ⟨rfl, rfl, rfl, rfl, rfl, rfl, rfl, rfl, fun st => ?_, rfl, rfl, rfl, rfl, rfl, rfl⟩
  cases st <;> rfl

/-- Settles O51: the result is read off STATUS and MODE, and by the invariant a STOPPED core has a last digit. -/
theorem resultOfEachEndOfARun : Obligations.ResultOfEachEndOfARun := by
  intro s
  refine ⟨fun hs hm => ?_, fun hs hm => ?_, fun hs => ?_, fun hinv hs => ?_⟩
  · simp only [runResult, hs, hm]
  · simp only [runResult, hs, hm]
  · simp only [runResult, hs]
  · obtain ⟨hm, htape⟩ := hinv.stopped_digit hs
    have hsplit : s.tape = s.tape.dropLast ++ [s.tape.getLast htape] := (List.dropLast_append_getLast htape).symm
    exact ⟨_, _, hsplit, runResult_of_stopped hs hm hsplit⟩

/-- Settles O52: only an `out` stops the run, and the digit that it appends is the OUT event of the step. -/
theorem untilOutReturnsTheDigitJustEmitted : Obligations.UntilOutReturnsTheDigitJustEmitted := by
  intro s t hs hm hstep ht
  have hevent : t.tape = s.tape ++ (outEvent s).toList := step_tape hstep
  cases moves_of_step hstep with
  | idle => cases hs.symm.trans ht
  | quiet => cases hs.symm.trans ht
  | halt | illegal => cases ht
  | @emit _ _ _ k =>
    refine ⟨mod8 k, ?_, afterOut_tape _ s, afterOut_pc _ s, runResult_of_stopped ht ((afterOut_mode _ s).trans hm)
      (afterOut_tape _ s)⟩
    rw [afterOut_tape, List.append_cancel_left_eq] at hevent
    exact Option.toList_eq_singleton_iff.mp hevent.symm

end Sys2Proof.Machine

/-! ## Words placed at `pc` (R71, R102, log entry 6) -/

namespace Sys2Proof.Machine

/-- What stands before the placed pair fills the program up to `pc`. -/
theorem length_before_placePair (s : State) :
    (s.prog.take s.pc ++ List.replicate (s.pc - s.prog.length) 0).length = s.pc := by
  simp only [List.length_append, List.length_take, List.length_replicate]
  omega

/-- From `pc` on stand the placed pair and what the program had behind it. -/
theorem placePair_prog_from_pc (op x : Nat) (s : State) (n : Nat) :
    (placePair op x s).prog[s.pc + n]? = (op :: x :: s.prog.drop (s.pc + 2))[n]? := by
  have hlen := length_before_placePair s
  simp only [placePair]
  rw [List.getElem?_append_right (by omega), hlen, Nat.add_sub_cancel_left]

/-- The placed pair stands at `pc`. -/
theorem pairAt_placePair (op x : Nat) (s : State) : PairAt (placePair op x s).prog s.pc op x :=
  ⟨placePair_prog_from_pc op x s 0, placePair_prog_from_pc op x s 1⟩

/-- The placed pair displaces no other element. -/
theorem placePair_prog_of_ne (op x : Nat) {s : State} {n e : Nat} (h0 : n ≠ s.pc) (h1 : n ≠ s.pc + 1)
    (he : s.prog[n]? = some e) : (placePair op x s).prog[n]? = some e := by
  obtain hlt | hgt := Nat.lt_or_gt_of_ne h0
  · have hlen := length_before_placePair s
    have hn : n < s.prog.length := (List.getElem?_eq_some_iff.mp he).1
    have htake : n < (s.prog.take s.pc).length := List.length_take ▸ lt_min hlt hn
    simp only [placePair]
    rw [List.getElem?_append_left (hlen.symm ▸ hlt), List.getElem?_append_left htake, List.getElem?_take_of_lt hlt, he]
  · obtain ⟨j, rfl⟩ : ∃ j, n = s.pc + 2 + j := ⟨n - (s.pc + 2), by omega⟩
    rw [Nat.add_assoc, Nat.add_comm 2 j, placePair_prog_from_pc, List.getElem?_cons_succ, List.getElem?_cons_succ,
      List.getElem?_drop, he]

/-- Settles O28: the two elements of the word are the pair at `pc`, and they decode. -/
theorem placedWordIsTheNextInstruction : Obligations.PlacedWordIsTheNextInstruction := by
  intro s w i hdecode hw
  have helements : tableElements 8 w = (w / 8, w % 8) := by
    simp only [tableElements, Prod.mk.injEq]
    omega
  have hd : decode (w / 8) (w % 8) = .ok i := by simpa only [helements] using decodeTableWord_eq_some_iff.mp hdecode
  have hplace : s.withFetchWord 8 w = placePair (w / 8) (w % 8) s := by simp only [State.withFetchWord, helements]
  obtain ⟨h0, h1⟩ := pairAt_placePair (w / 8) (w % 8) s
  rw [hplace]
  exact ⟨step_of_decode_ok rfl h0 h1 hd, (placePair (w / 8) (w % 8) s).prog, rfl, h0, h1,
    fun n e hn0 hn1 he => placePair_prog_of_ne _ _ hn0 hn1 he⟩

end Sys2Proof.Machine

/-! ## The invariant of every state the core can be in (R20–R46) -/

namespace Sys2Proof.Machine

/-- What the invariant says of a loaded program and of the tape, whatever the status. -/
structure LoadedInv (s : State) : Prop where
  held : s.held = .loaded
  checked : loadCheck s.prog = none
  fits : progFits s.params s.prog = true
  pc_bound : s.pc ≤ max s.prog.length 7
  tape_fits : ∀ cap, s.params.tapeCapacity = some cap → s.tape.length ≤ cap

/-- R33, R41: a core that is neither IDLE nor FAULTED has a loaded program. -/
theorem loadedInv_of_coreInv {s : State} (h : CoreInv s) (hidle : s.status ≠ .idle) (hfaulted : s.status ≠ .faulted) :
    LoadedInv s := by
  have hheld : s.held = .loaded := by
    cases hh : s.held with
    | powerOn => exact absurd (h.idle_iff.mpr hh) hidle
    | loadFailed => exact absurd (h.loadFailed_faulted hh) hfaulted
    | loaded => rfl
  exact ⟨hheld, h.loaded_checked hheld, h.loaded_fits hheld, h.pc_bound hheld, h.tape_fits⟩

/-- R35, R36: outside FAULTED there is no fault. -/
theorem noFault_of_coreInv {s : State} (h : CoreInv s) (hfaulted : s.status ≠ .faulted) :
    s.fault = .noFault ∧ s.faultAt = none := by
  have hfault : s.fault = .noFault := by
    by_contra hne
    exact hfaulted (h.faulted_iff.mpr hne)
  exact ⟨hfault, h.faultAt_iff.mpr hfault⟩

/-- A loaded core without a fault meets the invariant when its status fits `pc`, the tape and MODE. -/
theorem coreInv_of_noFault {s : State} (h : LoadedInv s) (hidle : s.status ≠ .idle) (hfaulted : s.status ≠ .faulted)
    (hfault : s.fault = .noFault) (hfaultAt : s.faultAt = none)
    (hhalted : s.status = .halted → s.prog.length ≤ s.pc + 1)
    (hstopped : s.status = .stopped → s.mode = .untilOut ∧ s.tape ≠ [])
    (hready : s.status = .ready → s.pc = 0 ∧ s.tape = []) : CoreInv s where
  idle_iff := iff_of_false hidle (by simp [h.held])
  powerOn_values := by simp [h.held]
  loadFailed_faulted := by simp [h.held]
  loaded_checked _ := h.checked
  loaded_fits _ := h.fits
  pc_bound _ := h.pc_bound
  faulted_iff := iff_of_false hfaulted (by simp [hfault])
  faultAt_iff := iff_of_true hfaultAt hfault
  run_fault hs := absurd hs hfaulted
  halted_end := hhalted
  stopped_digit := hstopped
  ready_start := hready
  tape_fits := h.tape_fits

/-- A running core meets the invariant when it is loaded and has no fault. -/
theorem coreInv_of_running {s : State} (h : LoadedInv s) (hs : s.status = .running) (hfault : s.fault = .noFault)
    (hfaultAt : s.faultAt = none) : CoreInv s :=
  coreInv_of_noFault h (by simp [hs]) (by simp [hs]) hfault hfaultAt (by simp [hs]) (by simp [hs]) (by simp [hs])

/-- A run keeps its program loaded, and the tape within its capacity. -/
theorem loadedInv_of_step {s t : State} (h : LoadedInv s) (hstep : step s = .next t) : LoadedInv t := by
  obtain ⟨hprog, -, hparams, hheld⟩ := step_keeps_program hstep
  refine ⟨hheld.trans h.held, hprog ▸ h.checked, by rw [hparams, hprog]; exact h.fits,
    pcStaysWithinItsBound s t h.pc_bound hstep, fun cap hcap => ?_⟩
  rw [hparams] at hcap
  cases moves_of_step hstep with
  | idle | halt | illegal | quiet => exact h.tape_fits cap hcap
  | emit _ _ _ _ hroom =>
    rw [afterOut_tape, List.length_append]
    exact (tapeHasRoom_iff s).mp hroom cap hcap

/-- A loaded core FAULTED by InvalidOperand at its odd `pc` meets the invariant. -/
theorem coreInv_of_runFault {s : State} (h : LoadedInv s) (hs : s.status = .faulted) (hfault : s.fault = .invalidOperand)
    (hfaultAt : s.faultAt = some s.pc) (hodd : s.pc % 2 = 1) : CoreInv s where
  idle_iff := iff_of_false (by simp [hs]) (by simp [h.held])
  powerOn_values := by simp [h.held]
  loadFailed_faulted _ := hs
  loaded_checked _ := h.checked
  loaded_fits _ := h.fits
  pc_bound _ := h.pc_bound
  faulted_iff := iff_of_true hs (by simp [hfault])
  faultAt_iff := iff_of_false (by simp [hfaultAt]) (by simp [hfault])
  run_fault _ _ := ⟨hfault, hfaultAt, hodd⟩
  halted_end := by simp [hs]
  stopped_digit := by simp [hs]
  ready_start := by simp [hs]
  tape_fits := h.tape_fits

/-- R79, R87, R165: the fault of a running core with a checked program is InvalidOperand at an odd `pc`. -/
theorem coreInv_of_step_faulted {s t : State} (h : LoadedInv s) (hs : s.status = .running) (hstep : step s = .next t)
    (ht : t.status = .faulted) : CoreInv t := by
  have hloaded := loadedInv_of_step h hstep
  obtain ⟨hodd, hcode, -⟩ := checkedProgramFaultsOnlyAtOddPc s t h.checked hs hstep ht
  obtain ⟨op, x, f, -, -, rfl⟩ := step_faulted hs hstep ht
  exact coreInv_of_runFault hloaded ht hcode rfl hodd

/-- Settles O40: each move of a running core meets the clauses of the status that it leads to. -/
theorem stepKeepsTheInvariant : Obligations.StepKeepsTheInvariant := by
  intro s t hinv hstep
  by_cases hs : s.status = .running
  · have hloaded : LoadedInv s := loadedInv_of_coreInv hinv (by simp [hs]) (by simp [hs])
    have hloaded' : LoadedInv t := loadedInv_of_step hloaded hstep
    obtain ⟨hfault, hfaultAt⟩ := noFault_of_coreInv hinv (by simp [hs])
    cases moves_of_step hstep with
    | idle hidle => exact hinv
    | halt _ hend =>
      exact coreInv_of_noFault hloaded' (by simp) (by simp) hfault hfaultAt (fun _ => hend) (by simp) (by simp)
    | illegal => exact coreInv_of_step_faulted hloaded hs hstep rfl
    | quiet => exact coreInv_of_running hloaded' hs hfault hfaultAt
    | @emit _ _ _ k =>
      obtain ⟨-, ht⟩ | ⟨hm, ht⟩ := afterOut_status_cases hs (mod8 k)
      · exact coreInv_of_running hloaded' ht (by simpa using hfault) (by simpa using hfaultAt)
      · exact coreInv_of_noFault hloaded' (by simp [ht]) (by simp [ht]) (by simpa using hfault) (by simpa using hfaultAt)
          (by simp [ht]) (by simp [hm]) (by simp [ht])
  · cases (step_of_not_running hs).symm.trans hstep
    exact hinv

/-- R41: a core after a successful LOAD meets the invariant. -/
theorem coreInv_install {prog : List Nat} {s : State} (hfits : progFits s.params prog = true)
    (hcheck : loadCheck prog = none) (a b c : Word) : CoreInv (install prog a b c s) :=
  coreInv_of_noFault ⟨rfl, hcheck, hfits, by simp, by simp⟩ (by simp) (by simp) rfl rfl (by simp) (by simp) (by simp)

/-- R160: a failed check has a FAULT code. -/
theorem loadFaultCode_ne_noFault (f : LoadFault) : loadFaultCode f ≠ .noFault := by
  match f with
  | .malformedProgram => decide
  | .illegalPair .invalidOpcode => decide
  | .illegalPair .invalidOperand => decide

/-- R41: a core after a LOAD that failed its check meets the invariant. -/
theorem coreInv_of_load_failed (f : LoadFault) (info : Nat) (s : State) :
    CoreInv (enterFault (loadFaultCode f) info (dropContents s)) where
  idle_iff := by simp
  powerOn_values := by simp
  loadFailed_faulted _ := rfl
  loaded_checked := by simp
  loaded_fits := by simp
  pc_bound := by simp
  faulted_iff := iff_of_true rfl (loadFaultCode_ne_noFault f)
  faultAt_iff := iff_of_false (by simp) (loadFaultCode_ne_noFault f)
  run_fault := by simp
  halted_end := by simp
  stopped_digit := by simp
  ready_start := by simp
  tape_fits := by simp

/-- R42: RUN keeps the invariant. -/
theorem coreInv_hostRun {s : State} (h : CoreInv s) (m : Mode) : CoreInv (hostRun m s) := by
  obtain ⟨hs, hrun⟩ | ⟨-, -, hsame⟩ := hostRun_cases m s
  · have hstatus : s.status ≠ .idle ∧ s.status ≠ .faulted := by
      obtain hs | hs := hs <;> simp [hs]
    obtain ⟨hidle, hfaulted⟩ := hstatus
    obtain ⟨hfault, hfaultAt⟩ := noFault_of_coreInv h hfaulted
    have hloaded : LoadedInv (startRun m s) := { loadedInv_of_coreInv h hidle hfaulted with }
    rw [hrun]
    exact coreInv_of_running hloaded rfl hfault hfaultAt
  · rwa [hsame]

/-- R41, R45: LOAD keeps the invariant. -/
theorem coreInv_hostLoad {prog : List Nat} {a b c : Word} {s t : State} (h : CoreInv s)
    (hload : hostLoad prog a b c s = .next t) : CoreInv t := by
  obtain ⟨-, hl⟩ | ⟨-, -, hl⟩ | ⟨-, hfits, hcheck, hl⟩ | ⟨f, info, -, -, -, hl⟩ := hostLoad_cases prog a b c s
  · cases hl.symm.trans hload
    exact h
  · cases hl.symm.trans hload
  · cases hl.symm.trans hload
    exact coreInv_install hfits hcheck a b c
  · cases hl.symm.trans hload
    exact coreInv_of_load_failed f info s

/-- R47: every transition keeps the invariant. -/
theorem coreInv_transition {cmd : Option Command} {s t : State} (h : CoreInv s) (htrans : transition cmd s = .next t) :
    CoreInv t := by
  match cmd with
  | none => exact stepKeepsTheInvariant s t h htrans
  | some (.run m) =>
    cases htrans
    exact coreInv_hostRun h m
  | some (.load prog a b c) => exact coreInv_hostLoad h htrans

/-- Settles O41, by induction on the host's actions. -/
theorem sessionKeepsTheInvariant : Obligations.SessionKeepsTheInvariant := by
  intro cmds
  induction cmds with
  | nil =>
    intro s t h hsession
    cases hsession
    exact h
  | cons cmd rest ih =>
    intro s t h hsession
    cases htrans : transition cmd s with
    | next u => exact ih u t (coreInv_transition h htrans) ((session_cons_of_next htrans rest).symm.trans hsession)
    | fault f => simp [session, htrans] at hsession
    | refused r => simp [session, htrans] at hsession

/-- R46, R190: the core after power-on meets the invariant, whatever the OPEN parameters are. -/
theorem coreInv_powerOn (p : Config.Params) : CoreInv (State.powerOn p) where
  idle_iff := by simp
  powerOn_values := by simp
  loadFailed_faulted := by simp
  loaded_checked := by simp
  loaded_fits := by simp
  pc_bound := by simp
  faulted_iff := by simp
  faultAt_iff := by simp
  run_fault := by simp
  halted_end := by simp
  stopped_digit := by simp
  ready_start := by simp
  tape_fits := by simp

/-- Settles O42: reset is power-on with unbounded parameters. -/
theorem resetMeetsTheInvariant : Obligations.ResetMeetsTheInvariant :=
  ⟨coreInv_powerOn Config.Params.unbounded, coreInv_powerOn⟩

end Sys2Proof.Machine
